-- ==== Sys2Proof/Word.lean ====
section
/-!
DEFINITION. The words the block moves and is addressed with (00_scope.md R10, 30_encoding.md R52).
-/
namespace Sys2Proof

/-- An unsigned 8-bit value: everything the block stores or moves (R10, R33). -/
abbrev Byte := BitVec 8

/-- A memory address as a word carries it, zero-extended to 24 bits (R54). -/
abbrev MemAddr := BitVec 24

/-- A port address: all 16 bits select the port (R87). -/
abbrev Port := BitVec 16

/-- A transaction word, format `T` (R52). -/
abbrev TxnWord := BitVec 40

end Sys2Proof
end

