-- ==== Sys2Proof/Syntax.lean ====
section
/-!
DEFINITION. The agents, the fifteen transactions of the opcode map (30_encoding.md R56), and the form in which an
agent hands one to the block: a 40-bit word and the image carried outside it (R52, R54).
-/
namespace Sys2Proof

/-- The three agents that issue transactions (44_agents.md R118). -/
inductive Agent where
  /-- The CPU-thread domain. -/
  | cpu
  /-- The host-thread domain, with the co-processor. -/
  | host
  /-- The process: it loads, starts and exits. -/
  | proc
  deriving DecidableEq, Repr, Inhabited

/-- The operand of `LOAD`: `UNREADABLE` or a finite list of bytes (R54, 43_lifecycle.md R107). -/
inductive Image where
  | unreadable
  | bytes (img : List Byte)
  deriving DecidableEq, Repr

/-- The transactions, one constructor for each row of the opcode table (R56). -/
inductive Instr where
  /-- `MEM_RD a` (R67). -/
  | memRd (a : MemAddr)
  /-- `MEM_WR a, v` (R70). -/
  | memWr (a : MemAddr) (v : Byte)
  /-- `IO_RD p` (R78). -/
  | ioRd (p : Port)
  /-- `IO_WR p, v` (R82). -/
  | ioWr (p : Port) (v : Byte)
  /-- `OUTQ_TRYRECV` (R91). -/
  | outqTryrecv
  /-- `OUTQ_RECV` (R94). -/
  | outqRecv
  /-- `INQ_SEND v` (R97). -/
  | inqSend (v : Byte)
  /-- `INQ_TRYRECV` (R99). -/
  | inqTryrecv
  /-- `INQ_RECV` (R100). -/
  | inqRecv
  /-- `OUTQ_CLOSE` (R102). -/
  | outqClose
  /-- `INQ_CLOSE` (R104). -/
  | inqClose
  /-- `LOAD img` (R107). -/
  | load (img : Image)
  /-- `START ok` (R110). -/
  | start (ok : Bool)
  /-- `QUIT` (R113). -/
  | quit
  /-- `PROC_EXIT` (R115). -/
  | procExit
  deriving DecidableEq, Repr

/-- A transaction as an agent issues it: the word, and beside it the image, which only a `LOAD` word reads (R54). -/
structure Request where
  word : TxnWord
  img  : Image
  deriving DecidableEq, Repr

end Sys2Proof
end

