-- ==== Sys2Proof/Config.lean ====
section
/-!
DEFINITION. The implementation parameters of 00_scope.md R7, the test configuration TC1 (R9), and the free values of the
model: the agent that an undetermined turn goes to (44_agents.md R119), and the byte of a character past ASCII
(30_encoding.md R64).
-/
namespace Sys2Proof

/-- `P_ADDR_W`: the allowed widths of a memory address (R7). -/
inductive AddrWidth where
  | w16
  | w24
  deriving DecidableEq, Repr

/-- The width in bits. -/
def AddrWidth.bits : AddrWidth → Nat
  | .w16 => 16
  | .w24 => 24

/-- `P_RX_MODE` (R7). `wired` is refused (R6). -/
inductive RxMode where
  | inert
  | wired
  deriving DecidableEq, Repr

/-- A failure's exit code: not zero (43_lifecycle.md R116, R117). -/
abbrev FailureExit := { n : Int // n ≠ 0 }

/-- The parameters of R7 that are not fixed by the source. The port count (65536), the port width (16), the timer
value (0x00), the orderly exit code (0) and the unbounded queues are normative and stand in the rules that use them.
The tick period is timing that no rule depends on (R160), so it is not here. -/
structure Config where
  /-- `P_ADDR_W`. -/
  addrWidth : AddrWidth
  /-- `P_ROM_SIZE`. -/
  romSize : Nat
  /-- `P_RAM_SIZE`. -/
  ramSize : Nat
  /-- `P_OPEN_BUS`. -/
  openBus : Byte
  /-- `P_TX_ADDR`. -/
  txAddr : Port
  /-- `P_CTS_ADDR`. -/
  ctsAddr : Port
  /-- `P_CTS_VAL`. -/
  ctsVal : Byte
  /-- `P_LSR_ADDR`. -/
  lsrAddr : Port
  /-- `P_LSR_VAL`. -/
  lsrVal : Byte
  /-- `P_TMR_LO_ADDR`. -/
  tmrLoAddr : Port
  /-- `P_TMR_HI_ADDR`. -/
  tmrHiAddr : Port
  /-- `P_RX_MODE`. -/
  rxMode : RxMode
  /-- `P_EXIT_UNREADABLE` (R116). -/
  exitUnreadable : FailureExit
  /-- `P_EXIT_TOO_LARGE` (R116). -/
  exitTooLarge : FailureExit
  /-- `P_EXIT_SURFACE` (R116). -/
  exitSurface : FailureExit
  deriving DecidableEq, Repr

/-- `TOTAL`, the size of the AddressSpace (R7). -/
def Config.total (c : Config) : Nat := c.romSize + c.ramSize

/-- The test configuration TC1 (R9): the default column of R7. -/
def Config.tc1 : Config where
  addrWidth := .w24
  romSize := 0x40000
  ramSize := 0x80000
  openBus := 0xFF
  txAddr := 0x00C0
  ctsAddr := 0x00A2
  ctsVal := 0x00
  lsrAddr := 0x00C5
  lsrVal := 0x40
  tmrLoAddr := 0x0081
  tmrHiAddr := 0x0082
  rxMode := .inert
  exitUnreadable := ⟨1, by decide⟩
  exitTooLarge := ⟨2, by decide⟩
  exitSurface := ⟨3, by decide⟩

/-- FREE VALUE. Which agent has the n-th turn that no input fixes: "Which agent steps next is not fixed: the model
admits every order" (R119). Nothing constrains it. Assumption log, entry 4. -/
opaque Config.freeTurn : Nat → Agent

/-- FREE VALUE. The byte that `TXS` sends for a character whose code point is not ASCII: the spec says "each the
character's byte" (R64) and names no character encoding. Nothing constrains it. Assumption log, entry 14. -/
opaque Config.freeCharByte : Nat → Byte

end Sys2Proof
end

