-- ==== Sys2Proof/WellFormed.lean ====
section
/-!
DEFINITION. Which transactions an engine of the configured width can issue at all. The operand types carry every
other bound of 30_encoding.md R54: a port has 16 bits, a byte 8, the surface flag is one bit.
-/
namespace Sys2Proof

/-- A memory address has `P_ADDR_W` bits (R54, R58): the one bound of R54 that no type carries. -/
def Instr.wellFormed (aw : AddrWidth) : Instr → Bool
  | .memRd a       => decide (a.toNat < 2 ^ aw.bits)
  | .memWr a _     => decide (a.toNat < 2 ^ aw.bits)
  | .ioRd _        => true
  | .ioWr _ _      => true
  | .outqTryrecv   => true
  | .outqRecv      => true
  | .inqSend _     => true
  | .inqTryrecv    => true
  | .inqRecv       => true
  | .outqClose     => true
  | .inqClose      => true
  | .load _        => true
  | .start _       => true
  | .quit          => true
  | .procExit      => true

end Sys2Proof
end

