-- ==== Sys2Proof/Decode.lean ====
section
/-!
DEFINITION. The decoder of 30_encoding.md R60, total on 40-bit words and rejecting by name (R58), the encoder (R52,
R54, R56), and the opcode table as rows of a mask and a pattern (R55, R56).
-/
namespace Sys2Proof

/-- Why a word is invalid (R58). -/
inductive DecodeError where
  /-- `OP = 0xF`, the whole reserved space (R57). -/
  | reservedOp
  /-- `Z` is not zero. -/
  | zField
  /-- A must-be-zero field of this `OP` is not zero (R55). -/
  | mustBeZero
  /-- A memory address of `2^P_ADDR_W` or more. -/
  | addressTooWide
  deriving DecidableEq, Repr

/-- `OP`, bits 39..36 (R52). -/
def opField (w : TxnWord) : BitVec 4 := w.extractLsb' 36 4

/-- `Z`, bits 35..32 (R52). -/
def zField (w : TxnWord) : BitVec 4 := w.extractLsb' 32 4

/-- `A`, bits 31..8 (R52). -/
def aField (w : TxnWord) : BitVec 24 := w.extractLsb' 8 24

/-- `D`, bits 7..0 (R52). -/
def dField (w : TxnWord) : BitVec 8 := w.extractLsb' 0 8

/-- `A[23:16]`, which a port transaction leaves zero (R54). -/
def aHigh (a : BitVec 24) : BitVec 8 := a.extractLsb' 16 8

/-- `A[15:0]`, the port address of a port transaction (R54). -/
def aPort (a : BitVec 24) : Port := a.extractLsb' 0 16

/-- `D[7:1]`, which `START` leaves zero (R54). -/
def dHigh (d : BitVec 8) : BitVec 7 := d.extractLsb' 1 7

/-- The transaction `i`, if the fields it does not use are zero (R55). -/
def unlessStray (stray : Bool) (i : Instr) : Except DecodeError Instr :=
  if stray then .error .mustBeZero else .ok i

/-- The memory transaction `i` at address `a`, if `a` has at most `P_ADDR_W` bits (R58). -/
def unlessTooWide (aw : AddrWidth) (a : BitVec 24) (i : Instr) : Except DecodeError Instr :=
  if a.toNat < 2 ^ aw.bits then .ok i else .error .addressTooWide

/-- The decoder by fields: R60's case on `OP`, for a word whose `Z` is zero. -/
def decodeFields (aw : AddrWidth) (op : BitVec 4) (a : BitVec 24) (d : BitVec 8) (img : Image) :
    Except DecodeError Instr :=
  match op.toNat with
  | 0x0 => if d ≠ 0 then .error .mustBeZero else unlessTooWide aw a (.memRd a)
  | 0x1 => unlessTooWide aw a (.memWr a d)
  | 0x2 => unlessStray (aHigh a != 0 || d != 0) (.ioRd (aPort a))
  | 0x3 => unlessStray (aHigh a != 0) (.ioWr (aPort a) d)
  | 0x4 => unlessStray (a != 0 || d != 0) .outqTryrecv
  | 0x5 => unlessStray (a != 0 || d != 0) .outqRecv
  | 0x6 => unlessStray (a != 0) (.inqSend d)
  | 0x7 => unlessStray (a != 0 || d != 0) .inqTryrecv
  | 0x8 => unlessStray (a != 0 || d != 0) .inqRecv
  | 0x9 => unlessStray (a != 0 || d != 0) .outqClose
  | 0xA => unlessStray (a != 0 || d != 0) .inqClose
  | 0xB => unlessStray (a != 0 || d != 0) (.load img)
  | 0xC => unlessStray (a != 0 || dHigh d != 0) (.start (d.getLsbD 0))
  | 0xD => unlessStray (a != 0 || d != 0) .quit
  | 0xE => unlessStray (a != 0 || d != 0) .procExit
  | _   => .error .reservedOp

/-- `decode(w)` of R60. The image beside the word goes into a `LOAD` and into nothing else (R54). -/
def decode (aw : AddrWidth) (r : Request) : Except DecodeError Instr :=
  if opField r.word = 0xF then .error .reservedOp
  else if zField r.word ≠ 0 then .error .zField
  else decodeFields aw (opField r.word) (aField r.word) (dField r.word) r.img

/-! ### The encoder -/

/-- The word `{OP, Z, A, D}` (R52, R53). -/
def packWord (op z : BitVec 4) (a : BitVec 24) (d : BitVec 8) : TxnWord := op ++ z ++ a ++ d

/-- `OP` (R56). -/
def Instr.op : Instr → BitVec 4
  | .memRd _       => 0x0
  | .memWr _ _     => 0x1
  | .ioRd _        => 0x2
  | .ioWr _ _      => 0x3
  | .outqTryrecv   => 0x4
  | .outqRecv      => 0x5
  | .inqSend _     => 0x6
  | .inqTryrecv    => 0x7
  | .inqRecv       => 0x8
  | .outqClose     => 0x9
  | .inqClose      => 0xA
  | .load _        => 0xB
  | .start _       => 0xC
  | .quit          => 0xD
  | .procExit      => 0xE

/-- The address field: a memory address, a zero-extended port, or zero (R54, R55). -/
def Instr.addressField : Instr → BitVec 24
  | .memRd a   => a
  | .memWr a _ => a
  | .ioRd p    => p.setWidth 24
  | .ioWr p _  => p.setWidth 24
  | _          => 0

/-- The data field: a byte, the surface flag, or zero (R54, R55). -/
def Instr.dataField : Instr → BitVec 8
  | .memWr _ v => v
  | .ioWr _ v  => v
  | .inqSend v => v
  | .start ok  => if ok then 1 else 0
  | _          => 0

/-- The image carried beside the word; the empty one where the transaction has none (R54). -/
def Instr.image : Instr → Image
  | .load img => img
  | _         => .bytes []

/-- A transaction as its agent issues it. -/
def encode (i : Instr) : Request where
  word := packWord i.op 0 i.addressField i.dataField
  img  := i.image

/-! ### The opcode table -/

/-- One row of the opcode table: a word belongs to it when its bits under the mask are the pattern. -/
structure OpcodeRow where
  mnemonic : String
  issuer   : Agent
  pattern  : TxnWord
  mask     : TxnWord
  deriving DecidableEq, Repr

/-- `w` is a word of the row. -/
def OpcodeRow.holds (row : OpcodeRow) (w : TxnWord) : Bool := w &&& row.mask == row.pattern

/-- The row of a transaction (R56; `opcode_table.json` is the copy of that rule). -/
def Instr.row : Instr → OpcodeRow
  | .memRd _       => ⟨"MEM_RD",       .cpu,  0x0000000000, 0xFF000000FF⟩
  | .memWr _ _     => ⟨"MEM_WR",       .cpu,  0x1000000000, 0xFF00000000⟩
  | .ioRd _        => ⟨"IO_RD",        .cpu,  0x2000000000, 0xFFFF0000FF⟩
  | .ioWr _ _      => ⟨"IO_WR",        .cpu,  0x3000000000, 0xFFFF000000⟩
  | .outqTryrecv   => ⟨"OUTQ_TRYRECV", .host, 0x4000000000, 0xFFFFFFFFFF⟩
  | .outqRecv      => ⟨"OUTQ_RECV",    .host, 0x5000000000, 0xFFFFFFFFFF⟩
  | .inqSend _     => ⟨"INQ_SEND",     .host, 0x6000000000, 0xFFFFFFFF00⟩
  | .inqTryrecv    => ⟨"INQ_TRYRECV",  .cpu,  0x7000000000, 0xFFFFFFFFFF⟩
  | .inqRecv       => ⟨"INQ_RECV",     .cpu,  0x8000000000, 0xFFFFFFFFFF⟩
  | .outqClose     => ⟨"OUTQ_CLOSE",   .host, 0x9000000000, 0xFFFFFFFFFF⟩
  | .inqClose      => ⟨"INQ_CLOSE",    .cpu,  0xA000000000, 0xFFFFFFFFFF⟩
  | .load _        => ⟨"LOAD",         .proc, 0xB000000000, 0xFFFFFFFFFF⟩
  | .start _       => ⟨"START",        .proc, 0xC000000000, 0xFFFFFFFFFE⟩
  | .quit          => ⟨"QUIT",         .host, 0xD000000000, 0xFFFFFFFFFF⟩
  | .procExit      => ⟨"PROC_EXIT",    .proc, 0xE000000000, 0xFFFFFFFFFF⟩

/-- One transaction of each row, in the table's order. -/
def oneOfEach : List Instr :=
  [.memRd 0, .memWr 0 0, .ioRd 0, .ioWr 0 0, .outqTryrecv, .outqRecv, .inqSend 0, .inqTryrecv, .inqRecv,
   .outqClose, .inqClose, .load .unreadable, .start true, .quit, .procExit]

/-- The opcode table. -/
def opcodeTable : List OpcodeRow := oneOfEach.map Instr.row

/-- The request a table word stands for: its bits above `nbits` zero, an empty image beside it. -/
def tableRequest (nbits w : Nat) : Request := ⟨BitVec.ofNat 40 (w % 2 ^ nbits), .bytes []⟩

/-- What the decoder reads from a table word, in the configuration TC1 (log entry 12). -/
def decodeTableWord (nbits w : Nat) : Option Instr :=
  if nbits ≤ 40 then
    match decode .w24 (tableRequest nbits w) with
    | .ok i    => some i
    | .error _ => none
  else none

end Sys2Proof
end

