-- ==== Sys2Proof/Machine/Memory.lean ====
section
/-!
DEFINITION. A byte store as sparse plain data: the AddressSpace array `mem` (10_state.md R17) and the port-register file
`io` (R18) are two of them. One canonical form: addresses strictly rising, and no cell that equals what an unlisted
address reads as.
-/
namespace Sys2Proof.Machine

/-- The listed cells of a byte store. -/
abbrev Memory := List Host.Cell

/-- What an unlisted address reads as: both arrays are all 0x00 at reset (R17, R18). -/
def Memory.unlisted : Byte := 0x00

/-- The byte stored at an address. -/
def Memory.get : Memory → Nat → Byte
  | [], _ => Memory.unlisted
  | (k, b) :: cells, a => if k = a then b else Memory.get cells a

/-- The cells with a byte put in front, left out where an unlisted address reads the same. -/
def Memory.cons (a : Nat) (v : Byte) (cells : Memory) : Memory :=
  if v = Memory.unlisted then cells else (a, v) :: cells

/-- The store after `a <- v`, in canonical form again. -/
def Memory.set : Memory → Nat → Byte → Memory
  | [], a, v => Memory.cons a v []
  | (k, b) :: cells, a, v =>
    if a < k then Memory.cons a v ((k, b) :: cells)
    else if a = k then Memory.cons a v cells
    else (k, b) :: Memory.set cells a v

/-- Byte `i` of the image at address `a + i`, for every `i` (43_lifecycle.md R107). -/
def Memory.setAll : Memory → Nat → List Byte → Memory
  | cells, _, [] => cells
  | cells, a, v :: vs => Memory.set (Memory.setAll cells (a + 1) vs) a v

/-- The canonical form. -/
def Memory.wf : Memory → Bool
  | [] => true
  | (k, b) :: cells => (b != Memory.unlisted) && cells.all (fun c => decide (k < c.1)) && Memory.wf cells

/-- Every listed address is below `bound`. -/
def Memory.below (bound : Nat) (cells : Memory) : Bool := cells.all (fun c => decide (c.1 < bound))

end Sys2Proof.Machine
end

