-- ==== Sys2Proof/Machine/State.lean ====
section
/-!
DEFINITION. The state record of 10_state.md R13, the model's own fields beside it, the reset state (70_reset_and_hazards.md
R148), and the reasons a step can stop.
-/
namespace Sys2Proof.Machine

/-- The system's lifecycle (R27). -/
inductive Phase where
  | preLoad
  | loaded
  | running
  | exiting
  | exited
  | failed
  deriving DecidableEq, Repr

/-- Which queue a fault is about: the `{queue: OUT}` or `{queue: IN}` of 60_exceptions.md R131. -/
inductive QueueId where
  | outbound
  | inbound
  deriving DecidableEq, Repr

/-- The block's faults with their info (60_exceptions.md R129). Log entry 10. -/
inductive BlockFault where
  /-- `F_IMAGE_UNREADABLE`, code 1. -/
  | imageUnreadable
  /-- `F_IMAGE_TOO_LARGE`, code 2, with the image's size. -/
  | imageTooLarge (size : Nat)
  /-- `F_HOST_SURFACE`, code 3. -/
  | hostSurface
  /-- `F_TRANSPORT_DISCONNECTED`, code 4, with the queue. -/
  | transportDisconnected (queue : QueueId)
  deriving DecidableEq, Repr

/-- `cpu` (R28). -/
inductive CpuStatus where
  | idle
  | active
  | faulted (f : BlockFault)
  deriving DecidableEq, Repr

/-- `host` (R28). -/
inductive HostStatus where
  | idle
  | active
  | done
  | faulted (f : BlockFault)
  deriving DecidableEq, Repr

/-- A transaction's response (30_encoding.md R62). -/
inductive Response where
  /-- `NONE`. -/
  | none
  /-- `BYTE(b)`. -/
  | byte (b : Byte)
  /-- `EMPTY`. -/
  | empty
  deriving DecidableEq, Repr

/-- The reasons of `refuse` (60_exceptions.md R136). -/
inductive RefuseReason where
  /-- `REF_INVALID`. -/
  | invalid
  /-- `REF_NOT_OWNER`. -/
  | notOwner
  /-- `REF_CLOSED_ENDPOINT`. -/
  | closedEndpoint
  /-- `REF_CONFIG`. -/
  | config
  deriving DecidableEq, Repr

/-- What an agent's turn came to. A refused, a held and a faulting transaction return no response (R62).
Log entry 5. -/
inductive TxnResult where
  /-- The agent had issued nothing. -/
  | idle
  /-- The transaction took its step and returned a response. -/
  | returned (r : Response)
  /-- The transaction holds: it had no step (R137). -/
  | held
  /-- The transaction was refused (R136). -/
  | refused (r : RefuseReason)
  /-- The transaction raised a fault (R132). -/
  | faulted (f : BlockFault)
  deriving DecidableEq, Repr

/-- The state. The first twelve fields are exactly those of R13; the rest are the model's own: the parameters it takes
(00_scope.md R7), its inputs (44_agents.md R119, R121) and its output (R62). -/
structure State where
  /-- The AddressSpace array: cell `a` for `a < TOTAL` (R17). -/
  mem : Memory
  /-- The port-register file, hidden bytes under synthetic ports included (R18, R20). -/
  io : Memory
  /-- The outbound queue, head first (R22). -/
  outq : List Byte
  /-- The inbound queue, head first (R22). -/
  inq : List Byte
  /-- The outbound consumer endpoint exists (R24). -/
  outqConsOpen : Bool
  /-- The inbound consumer endpoint exists (R24). -/
  inqConsOpen : Bool
  /-- The lifecycle (R27). -/
  phase : Phase
  /-- The CPU domain (R28). -/
  cpu : CpuStatus
  /-- The host domain (R28). -/
  host : HostStatus
  /-- The startup fault, when `phase = FAILED` (R28). -/
  failCode : Option BlockFault
  /-- The process's exit code (R28). -/
  exitCode : Option Int
  /-- Some transaction was refused (R28, R136). -/
  refused : Bool
  /-- Model's own: the parameters. No step changes them. Log entry 1. -/
  cfg : Config
  /-- Model's own: what the CPU agent has issued and has not run, in issue order (R15). Log entry 3. -/
  cpuTxns : List Request
  /-- Model's own: what the HOST agent has issued and has not run, in issue order. Log entry 3. -/
  hostTxns : List Request
  /-- Model's own: what the PROC agent has issued and has not run, in issue order. Log entry 3. -/
  procTxns : List Request
  /-- Model's own: the agents whose turns come next; after them, turns are free (R119). Log entry 4. -/
  sched : List Agent
  /-- Model's own: how many free turns have been drawn. Log entry 4. -/
  draws : Nat
  /-- Model's own: what the last turn came to (R62). Log entry 5. -/
  last : TxnResult
  deriving DecidableEq, Repr

/-- Why the machine has no step at all. -/
inductive Fault where
  /-- `phase = EXITED`, "the only orderly end of a run" (43_lifecycle.md R117). Raised by `step` alone. Safe: the
  block has no step there. -/
  | runExited
  /-- `phase = FAILED`, the final state after a startup fault (R117). Raised by `step` alone. Safe: the block has no
  step there. -/
  | runFailed
  deriving DecidableEq, Repr

/-- Why the model has no meaning for an instruction. The block's own refusals are not these: they are next states with
`refused` set (R136). -/
inductive Refusal where
  /-- The transaction has no meaning in this model. Raised by an arm of `exec` alone; no arm raises it. Safe. -/
  | notModelled (mnemonic : String)
  deriving DecidableEq, Repr

/-- The three outcomes of a transaction or a step. -/
abbrev Result := Host.Outcome State Fault Refusal

/-- The state at process start, with parameters `c` (R13, R148). The model's own fields hold no input yet
(log entries 3, 4, 5). -/
def State.resetWith (c : Config) : State where
  mem := []
  io := []
  outq := []
  inq := []
  outqConsOpen := true
  inqConsOpen := true
  phase := .preLoad
  cpu := .idle
  host := .idle
  failCode := none
  exitCode := none
  refused := false
  cfg := c
  cpuTxns := []
  hostTxns := []
  procTxns := []
  sched := []
  draws := 0
  last := .idle

/-- The machine right after reset, in the test configuration TC1 (R9). Log entry 2. -/
def State.reset : State := State.resetWith Config.tc1

end Sys2Proof.Machine
end

