-- ==== Sys2Proof/Machine/Operands.lean ====
section
/-!
DEFINITION. What an operand selects: the range of a memory address (20_memory.md R36-R38), the class of a port (R40) and
the constants of the synthetic ports (41_port_io.md R76), the exit code of a startup fault (43_lifecycle.md R116), and the
bit form of a response (30_encoding.md R62).
-/
namespace Sys2Proof.Machine

/-- `a < TOTAL`, an unsigned comparison on the full address (R38). -/
def inRange (c : Config) (a : MemAddr) : Bool := decide (a.toNat < c.total)

/-- The regions of the memory space (R36). No transaction tells the first two apart (R74). -/
inductive MemRegion where
  | firmware
  | ram
  | unbacked
  deriving DecidableEq, Repr

/-- The region an address lies in (R36). -/
def regionOf (c : Config) (a : MemAddr) : MemRegion :=
  if a.toNat < c.romSize then .firmware
  else if a.toNat < c.total then .ram
  else .unbacked

/-- `P_TMR_VAL`: the timer ports read zero at every moment (R76, R85). -/
def timerVal : Byte := 0x00

/-- The constant a port reads as, if the port is synthetic (R76, R77). -/
def syntheticVal (c : Config) (p : Port) : Option Byte :=
  if p = c.ctsAddr then some c.ctsVal
  else if p = c.lsrAddr then some c.lsrVal
  else if p = c.tmrLoAddr then some timerVal
  else if p = c.tmrHiAddr then some timerVal
  else none

/-- `p` is in `SYN` (10_state.md R19). -/
def isSynthetic (c : Config) (p : Port) : Bool := (syntheticVal c p).isSome

/-- The classes of a port (R40). -/
inductive PortClass where
  | synthetic
  | transmitData
  | stored
  deriving DecidableEq, Repr

/-- The class a port belongs to (R40). -/
def portClass (c : Config) (p : Port) : PortClass :=
  if isSynthetic c p then .synthetic
  else if p = c.txAddr then .transmitData
  else .stored

/-- The numeric code of a fault (60_exceptions.md R129). -/
def BlockFault.code : BlockFault → Nat
  | .imageUnreadable         => 1
  | .imageTooLarge _         => 2
  | .hostSurface             => 3
  | .transportDisconnected _ => 4

/-- `P_EXIT_OK` (R116). -/
def exitOk : Int := 0

/-- The exit code a startup fault ends the process with: the parameter of R108, R109 or R111. Code 4 is never raised
by PROC (R130). Log entry 11. -/
def exitCodeOf (c : Config) (f : BlockFault) : Int :=
  match f with
  | .imageUnreadable         => c.exitUnreadable.val
  | .imageTooLarge _         => c.exitTooLarge.val
  | .hostSurface             => c.exitSurface.val
  | .transportDisconnected _ => f.code

/-- The 10-bit form of a response: `[9:8]` the kind, `[7:0]` the byte (R62). -/
def Response.bits : Response → BitVec 10
  | .none   => 0b00#2 ++ 0#8
  | .byte b => 0b01#2 ++ b
  | .empty  => 0b10#2 ++ 0#8

end Sys2Proof.Machine
end

