-- ==== Sys2Proof/Machine/Flags.lean ====
section
/-!
DEFINITION. The block has no condition flags (10_state.md R16). Its conditions are these: when a configuration is accepted
(00_scope.md R8), and when a transaction is enabled (44_agents.md R120).
-/
namespace Sys2Proof.Machine

/-- The five named ports are pairwise distinct (R8). -/
def portsDistinct (c : Config) : Bool :=
  decide [c.txAddr, c.ctsAddr, c.lsrAddr, c.tmrLoAddr, c.tmrHiAddr].Nodup

/-- The constraints of R8, and the inert receive path (R6). Each port is below `2^16` by its type. -/
def configValid (c : Config) : Bool :=
  decide (1 ≤ c.romSize) && decide (1 ≤ c.ramSize) && decide (c.total ≤ 2 ^ c.addrWidth.bits) &&
    portsDistinct c && (c.rxMode == .inert)

/-- `FAILED` and `EXITED` are terminal: no transaction of any agent has a step (43_lifecycle.md R117). -/
def terminal (s : State) : Bool := s.phase == .exited || s.phase == .failed

/-- `phase` in {`RUNNING`, `EXITING`}: the `RUN/EXIT` of R120. -/
def inRunExit (s : State) : Bool := s.phase == .running || s.phase == .exiting

/-- The condition of the CPU's transactions. `INQ_CLOSE` has it too: log entry 9. -/
def cpuEnabled (s : State) : Bool := inRunExit s && s.cpu == .active

/-- The condition of the HOST's queue transactions. -/
def hostEnabled (s : State) : Bool := inRunExit s && s.host == .active

/-- The condition of `OUTQ_CLOSE`: `host` in {`ACTIVE`, `DONE`}. -/
def closeEnabled (s : State) : Bool := inRunExit s && (s.host == .active || s.host == .done)

/-- The condition of `QUIT`. -/
def quitEnabled (s : State) : Bool := s.phase == .running && s.host == .active

/-- The condition of `LOAD`. -/
def loadEnabled (s : State) : Bool := s.phase == .preLoad

/-- The condition of `START`. -/
def startEnabled (s : State) : Bool := s.phase == .loaded

/-- The condition of `PROC_EXIT`. -/
def exitEnabled (s : State) : Bool := s.phase == .exiting

end Sys2Proof.Machine
end

