-- ==== Sys2Proof/Machine/Ops.lean ====
section
/-!
DEFINITION. The named operations the transactions are built from: 00_scope.md R11's primitives (MemRead, MemWrite,
PortRead, PortWrite, Enq, Deq, raise, refuse, hold, return) and the lifecycle's writes. Raising a fault is ONE operation
here, `raiseFault` (60_exceptions.md R132); there is no return from one (R142).
-/
namespace Sys2Proof.Machine

/-! ### How a transaction ends -/

/-- `return v`: the response (R62). -/
def respond (r : Response) (s : State) : State := { s with last := .returned r }

/-- `hold`: the transaction has no step, so nothing of the block changes and it stays its agent's next one (R137). -/
def hold (s : State) : State := { s with last := .held }

/-- `refuse(reason)`: sets `refused` and changes no other state of the block (R136). -/
def refuse (r : RefuseReason) (s : State) : State := { s with refused := true, last := .refused r }

/-- A fault of PROC ends the run as `FAILED` (R130). -/
def failStartup (f : BlockFault) (s : State) : State :=
  { s with phase := .failed, failCode := some f, exitCode := some (exitCodeOf s.cfg f), last := .faulted f }

/-- A fault of the CPU domain stops that domain for good (R132). -/
def stopCpu (f : BlockFault) (s : State) : State := { s with cpu := .faulted f, last := .faulted f }

/-- A fault of the host domain stops that domain for good (R132). -/
def stopHost (f : BlockFault) (s : State) : State := { s with host := .faulted f, last := .faulted f }

/-- `raise Fault(code, info)` on behalf of an issuer (R132). -/
def raiseFault (issuer : Agent) (f : BlockFault) (s : State) : State :=
  match issuer with
  | .proc => failStartup f s
  | .cpu  => stopCpu f s
  | .host => stopHost f s

/-- The state after the body `done` when the transaction is enabled, and a hold otherwise (30_encoding.md R59). -/
def whenEnabled (enabled : Bool) (s done : State) : State := if enabled then done else hold s

/-! ### Memory (40_bus_memory.md R68, R71) -/

/-- `MemRead(a, 1)`. -/
def memRead (s : State) (a : MemAddr) : Byte :=
  if inRange s.cfg a then Memory.get s.mem a.toNat else s.cfg.openBus

/-- `MemWrite(a, 1, v)`. -/
def memWrite (a : MemAddr) (v : Byte) (s : State) : State :=
  { s with mem := if inRange s.cfg a then Memory.set s.mem a.toNat v else s.mem }

/-! ### Queues (42_transport.md R89). `Deq` is the pattern match of `recvOut` and `recvIn`: a queue is tested for
emptiness first. -/

/-- `Enq(outq, v)`. -/
def enqOut (v : Byte) (s : State) : State := { s with outq := s.outq ++ [v] }

/-- `Enq(inq, v)`. -/
def enqIn (v : Byte) (s : State) : State := { s with inq := s.inq ++ [v] }

/-- A send on `outq` by the CPU domain: it fails only at a closed consumer endpoint (R90, R103). -/
def sendOut (v : Byte) (s : State) : State :=
  if s.outqConsOpen then respond .none (enqOut v s)
  else raiseFault .cpu (.transportDisconnected .outbound) s

/-- A send on `inq` by the host domain (R97). -/
def sendIn (v : Byte) (s : State) : State :=
  if s.inqConsOpen then respond .none (enqIn v s)
  else raiseFault .host (.transportDisconnected .inbound) s

/-- `outq` without its head. -/
def dropOut (s : State) : State := { s with outq := s.outq.tail }

/-- `inq` without its head. -/
def dropIn (s : State) : State := { s with inq := s.inq.tail }

/-- A receive from `outq`: `Deq` and its byte, or what the receive does on an empty queue (R91, R94). -/
def recvOut (onEmpty : State) (s : State) : State :=
  match s.outq with
  | []     => onEmpty
  | b :: _ => respond (.byte b) (dropOut s)

/-- A receive from `inq` (R99, R100). -/
def recvIn (onEmpty : State) (s : State) : State :=
  match s.inq with
  | []     => onEmpty
  | b :: _ => respond (.byte b) (dropIn s)

/-- The outbound consumer endpoint is torn down (R102). -/
def closeOut (s : State) : State := { s with outqConsOpen := false }

/-- The inbound consumer endpoint is torn down (R104). -/
def closeIn (s : State) : State := { s with inqConsOpen := false }

/-! ### Ports (41_port_io.md R77, R81) -/

/-- `PortRead(p)`: the constant of a synthetic port, else the stored byte. -/
def portRead (s : State) (p : Port) : Byte :=
  match syntheticVal s.cfg p with
  | some v => v
  | none   => Memory.get s.io p.toNat

/-- `io[p] <- v`, for every port, synthetic or not. -/
def portStore (p : Port) (v : Byte) (s : State) : State := { s with io := Memory.set s.io p.toNat v }

/-- `PortWrite(p, v)`, with its response: the store first, then at `P_TX_ADDR` the send (R81). -/
def portWrite (p : Port) (v : Byte) (s : State) : State :=
  if p = s.cfg.txAddr then sendOut v (portStore p v s) else respond .none (portStore p v s)

/-! ### Lifecycle (43_lifecycle.md) -/

/-- `mem[i] <- img[i]` for every byte of the image, then `phase <- LOADED` (R107). -/
def loadImage (img : List Byte) (s : State) : State :=
  { s with mem := Memory.setAll s.mem 0 img, phase := .loaded }

/-- Both domains start in one step (R110). -/
def startDomains (s : State) : State := { s with cpu := .active, host := .active, phase := .running }

/-- The orderly shutdown of the host domain (R113). -/
def quitHost (s : State) : State := { s with host := .done, outqConsOpen := false, phase := .exiting }

/-- The process's orderly end (R115). -/
def endProcess (s : State) : State := { s with exitCode := some exitOk, phase := .exited }

/-! ### Ownership (30_encoding.md R56) -/

/-- The agent that may issue a transaction. -/
def issuer : Instr → Agent
  | .memRd _       => .cpu
  | .memWr _ _     => .cpu
  | .ioRd _        => .cpu
  | .ioWr _ _      => .cpu
  | .outqTryrecv   => .host
  | .outqRecv      => .host
  | .inqSend _     => .host
  | .inqTryrecv    => .cpu
  | .inqRecv       => .cpu
  | .outqClose     => .host
  | .inqClose      => .cpu
  | .load _        => .proc
  | .start _       => .proc
  | .quit          => .host
  | .procExit      => .proc

/-! ### Enabling (44_agents.md R120) -/

/-- The phase and domain conditions of a transaction: R120's table. -/
def enabled (i : Instr) (s : State) : Bool :=
  match i with
  | .memRd _       => cpuEnabled s
  | .memWr _ _     => cpuEnabled s
  | .ioRd _        => cpuEnabled s
  | .ioWr _ _      => cpuEnabled s
  | .outqTryrecv   => hostEnabled s
  | .outqRecv      => hostEnabled s
  | .inqSend _     => hostEnabled s
  | .inqTryrecv    => cpuEnabled s
  | .inqRecv       => cpuEnabled s
  | .outqClose     => closeEnabled s
  | .inqClose      => cpuEnabled s
  | .load _        => loadEnabled s
  | .start _       => startEnabled s
  | .quit          => quitEnabled s
  | .procExit      => exitEnabled s

/-- R120's last column: the endpoint a receive needs, "else it is refused". -/
def endpointOpen (i : Instr) (s : State) : Bool :=
  match i with
  | .outqTryrecv => s.outqConsOpen
  | .outqRecv    => s.outqConsOpen
  | .inqTryrecv  => s.inqConsOpen
  | .inqRecv     => s.inqConsOpen
  | _            => true

/-- The transaction is not refused: its endpoint is there, or no transaction has a step (43_lifecycle.md R117). -/
def passesEndpoint (i : Instr) (s : State) : Bool := endpointOpen i s || terminal s

end Sys2Proof.Machine
end

