-- ==== Sys2Proof/Machine/Lifecycle.lean ====
section
/-!
DEFINITION. The lifecycle transactions `LOAD`, `START`, `QUIT` and `PROC_EXIT` (43_lifecycle.md).
-/
namespace Sys2Proof.Machine

/-- The body of `LOAD` (R107): readability first, then size, then the copy (60_exceptions.md R139). -/
def loadBody (img : Image) (s : State) : State :=
  match img with
  | .unreadable => raiseFault .proc .imageUnreadable s
  | .bytes bs   =>
    if s.cfg.total < bs.length then raiseFault .proc (.imageTooLarge bs.length) s
    else respond .none (loadImage bs s)

/-- `LOAD img` (R107). -/
def execLoad (img : Image) (s : State) : Result :=
  .next (whenEnabled (loadEnabled s) s (loadBody img s))

/-- `START ok` (R110). -/
def execStart (ok : Bool) (s : State) : Result :=
  .next (whenEnabled (startEnabled s) s
    (if ok then respond .none (startDomains s) else raiseFault .proc .hostSurface s))

/-- `QUIT` (R113). -/
def execQuit (s : State) : Result :=
  .next (whenEnabled (quitEnabled s) s (respond .none (quitHost s)))

/-- `PROC_EXIT` (R115). -/
def execProcExit (s : State) : Result :=
  .next (whenEnabled (exitEnabled s) s (respond .none (endProcess s)))

end Sys2Proof.Machine
end

