-- ==== Sys2Proof/Machine/MemoryBus.lean ====
section
/-!
DEFINITION. The memory bus transactions `MEM_RD` and `MEM_WR` (40_bus_memory.md).
-/
namespace Sys2Proof.Machine

/-- `MEM_RD a` (R67). -/
def execMemRd (a : MemAddr) (s : State) : Result :=
  .next (whenEnabled (cpuEnabled s) s (respond (.byte (memRead s a)) s))

/-- `MEM_WR a, v` (R70). -/
def execMemWr (a : MemAddr) (v : Byte) (s : State) : Result :=
  .next (whenEnabled (cpuEnabled s) s (respond .none (memWrite a v s)))

end Sys2Proof.Machine
end

