-- ==== Sys2Proof/Machine/PortIo.lean ====
section
/-!
DEFINITION. The port transactions `IO_RD` and `IO_WR` (41_port_io.md).
-/
namespace Sys2Proof.Machine

/-- `IO_RD p` (R78). -/
def execIoRd (p : Port) (s : State) : Result :=
  .next (whenEnabled (cpuEnabled s) s (respond (.byte (portRead s p)) s))

/-- `IO_WR p, v` (R82). -/
def execIoWr (p : Port) (v : Byte) (s : State) : Result :=
  .next (whenEnabled (cpuEnabled s) s (portWrite p v s))

end Sys2Proof.Machine
end

