-- ==== Sys2Proof/Machine/Transport.lean ====
section
/-!
DEFINITION. The queue transactions (42_transport.md). A receive at a consumer endpoint already torn down is refused before
anything else is looked at (R93, 60_exceptions.md R139; log entry 8).
-/
namespace Sys2Proof.Machine

/-- A receive: refused at a closed endpoint, held when not enabled, else its body. In a terminal phase it has no step
(43_lifecycle.md R117), so it is not refused there either: it holds. -/
def receive (consOpen enabled : Bool) (s done : State) : State :=
  if consOpen || terminal s then whenEnabled enabled s done else refuse .closedEndpoint s

/-- `OUTQ_TRYRECV` (R91). -/
def execOutqTryrecv (s : State) : Result :=
  .next (receive s.outqConsOpen (hostEnabled s) s (recvOut (respond .empty s) s))

/-- `OUTQ_RECV` (R94): on an empty queue it holds (R95). -/
def execOutqRecv (s : State) : Result :=
  .next (receive s.outqConsOpen (hostEnabled s) s (recvOut (hold s) s))

/-- `INQ_SEND v` (R97). -/
def execInqSend (v : Byte) (s : State) : Result :=
  .next (whenEnabled (hostEnabled s) s (sendIn v s))

/-- `INQ_TRYRECV` (R99). -/
def execInqTryrecv (s : State) : Result :=
  .next (receive s.inqConsOpen (cpuEnabled s) s (recvIn (respond .empty s) s))

/-- `INQ_RECV` (R100): on an empty queue it holds (R95). -/
def execInqRecv (s : State) : Result :=
  .next (receive s.inqConsOpen (cpuEnabled s) s (recvIn (hold s) s))

/-- `OUTQ_CLOSE` (R102). -/
def execOutqClose (s : State) : Result :=
  .next (whenEnabled (closeEnabled s) s (respond .none (closeOut s)))

/-- `INQ_CLOSE` (R104). -/
def execInqClose (s : State) : Result :=
  .next (whenEnabled (cpuEnabled s) s (respond .none (closeIn s)))

end Sys2Proof.Machine
end

