-- ==== Sys2Proof/Machine/Dispatch.lean ====
section
/-!
DEFINITION. One arm for each transaction of the opcode map (30_encoding.md R56).
-/
namespace Sys2Proof.Machine

/-- What a transaction does, issued by its owner. -/
def exec (i : Instr) (s : State) : Host.Outcome State Fault Refusal :=
  match i with
  | .memRd a => Sys2Proof.Machine.execMemRd a s
  | .memWr a v => Sys2Proof.Machine.execMemWr a v s
  | .ioRd p => Sys2Proof.Machine.execIoRd p s
  | .ioWr p v => Sys2Proof.Machine.execIoWr p v s
  | .outqTryrecv => Sys2Proof.Machine.execOutqTryrecv s
  | .outqRecv => Sys2Proof.Machine.execOutqRecv s
  | .inqSend v => Sys2Proof.Machine.execInqSend v s
  | .inqTryrecv => Sys2Proof.Machine.execInqTryrecv s
  | .inqRecv => Sys2Proof.Machine.execInqRecv s
  | .outqClose => Sys2Proof.Machine.execOutqClose s
  | .inqClose => Sys2Proof.Machine.execInqClose s
  | .load img => Sys2Proof.Machine.execLoad img s
  | .start ok => Sys2Proof.Machine.execStart ok s
  | .quit => Sys2Proof.Machine.execQuit s
  | .procExit => Sys2Proof.Machine.execProcExit s

end Sys2Proof.Machine
end

