-- ==== Sys2Proof/Machine/Fetch.lean ====
section
/-!
DEFINITION. How the machine comes by its next transaction: whose turn it is (44_agents.md R119), what that agent has issued
(R121), whether the word is valid and its issuer the owner (30_encoding.md R58, R59), and what is done with it afterwards.
The block has no program counter (10_state.md R15): each agent's issued transactions are a list in its issue order.
-/
namespace Sys2Proof.Machine

/-! ### Issuing -/

/-- What an agent has issued and has not run. -/
def State.txns (s : State) : Agent → List Request
  | .cpu  => s.cpuTxns
  | .host => s.hostTxns
  | .proc => s.procTxns

/-- The same state with another list of issued transactions for one agent. -/
def State.setTxns (a : Agent) (rs : List Request) (s : State) : State :=
  { s with
    cpuTxns  := if a = .cpu then rs else s.cpuTxns
    hostTxns := if a = .host then rs else s.hostTxns
    procTxns := if a = .proc then rs else s.procTxns }

/-- The outside world issues a transaction: an agent's next request joins its list. It may come between any two
steps, so an engine that chooses "each transaction after seeing the responses to the earlier ones" (R121) is one that
issues after each step. -/
def State.issue (a : Agent) (r : Request) (s : State) : State := s.setTxns a (s.txns a ++ [r])

/-! ### Turns -/

/-- The agent whose turn it is: the input's next one, else a free value (R119). -/
def State.turn (s : State) : Agent :=
  match s.sched with
  | a :: _ => a
  | []     => Config.freeTurn s.draws

/-- The outside world fixes one more turn. -/
def State.schedule (a : Agent) (s : State) : State := { s with sched := s.sched ++ [a] }

/-- The turn is used up. -/
def State.takeTurn (s : State) : State :=
  { s with sched := s.sched.tail, draws := if s.sched.isEmpty then s.draws + 1 else s.draws }

/-- A faulted domain issues no further transaction (60_exceptions.md R132). -/
def silenced (s : State) (a : Agent) : Bool :=
  match a with
  | .cpu  => match s.cpu with | .faulted _ => true | _ => false
  | .host => match s.host with | .faulted _ => true | _ => false
  | .proc => false

/-! ### Fetching -/

/-- What a turn finds. -/
inductive Fetched where
  /-- The agent has issued nothing. -/
  | idle
  /-- The transaction is refused before its body (R139). -/
  | refused (r : RefuseReason)
  /-- A valid transaction from its owner. -/
  | run (i : Instr)
  deriving DecidableEq, Repr

/-- A request checked: invalid words first, then ownership (30_encoding.md R58, R59). -/
def checkRequest (c : Config) (a : Agent) (r : Request) : Fetched :=
  match decode c.addrWidth r with
  | .error _ => .refused .invalid
  | .ok i    => if issuer i = a then .run i else .refused .notOwner

/-- What the agent whose turn it is has next. -/
def State.fetched (s : State) : Fetched :=
  if silenced s s.turn then .idle
  else match s.txns s.turn with
    | []     => .idle
    | r :: _ => checkRequest s.cfg s.turn r

/-- The agent's first transaction leaves its list, unless it holds: then it stays the agent's next one
(R59, R137). -/
def State.retire (a : Agent) (s : State) : State :=
  if s.last = .held then s else s.setTxns a (s.txns a).tail

/-- A turn with nothing issued. -/
def idleTurn (s : State) : State := { s.takeTurn with last := .idle }

/-- A turn whose transaction is refused. -/
def refusedTurn (r : RefuseReason) (s : State) : State := (refuse r s.takeTurn).retire s.turn

/-- The end of a turn whose transaction was run. -/
def finishTurn (a : Agent) (r : Result) : Result :=
  match r with
  | .next s    => .next (s.retire a)
  | .fault f   => .fault f
  | .refused q => .refused q

/-- `FAILED` and `EXITED` are terminal: no transaction of any agent has a step (43_lifecycle.md R117). -/
def ended (s : State) : Option Fault :=
  match s.phase with
  | .exited => some .runExited
  | .failed => some .runFailed
  | _       => none

/-! ### A program from outside -/

/-- The least change of the lifecycle fields that lets a transaction's owner issue it (44_agents.md R120): none where
it is enabled already. -/
def admitting (i : Instr) (s : State) : State :=
  if enabled i s then s
  else match i with
  | .load _   => { s with phase := .preLoad }
  | .start _  => { s with phase := .loaded }
  | .procExit => { s with phase := .exiting }
  | .quit     => { s with phase := .running, host := .active }
  | _         =>
    { s with
      phase := if inRunExit s then s.phase else .running
      cpu   := if issuer i = .cpu then .active else s.cpu
      host  := if issuer i = .host then .active else s.host }

/-- A request put first in its owner's list, with that owner's turn next and the transaction enabled. An invalid word
is given to the CPU agent. -/
def placeFirst (r : Request) (s : State) : State :=
  match decode s.cfg.addrWidth r with
  | .ok i    =>
    let t := admitting i s
    { t.setTxns (issuer i) (r :: t.txns (issuer i)) with sched := issuer i :: t.sched }
  | .error _ => { s.setTxns .cpu (r :: s.txns .cpu) with sched := .cpu :: s.sched }

end Sys2Proof.Machine
end

