-- ==== Sys2Proof/Machine/Turn.lean ====
section
/-!
DEFINITION. One turn of one agent, and in it at most one whole transaction (20_memory.md R42, 44_agents.md R119).
-/
namespace Sys2Proof.Machine

/-- A configuration that R8 does not accept has every turn refused and no other effect (00_scope.md R8, R136; log
entry 6). In a terminal phase there is no step (R117; log entry 7). Else the agent whose turn it is runs its next
transaction. -/
def runTurn (s : State) : Result :=
  if configValid s.cfg then
    match ended s with
    | some f => .fault f
    | none   =>
      match s.fetched with
      | .idle      => .next (idleTurn s)
      | .refused r => .next (refusedTurn r s)
      | .run i     => finishTurn s.turn (exec i s.takeTurn)
  else .next (refusedTurn .config s)

end Sys2Proof.Machine
end

