-- ==== Sys2Proof/Machine/Step.lean ====
section
/-!
DEFINITION. One step of the machine.
-/
namespace Sys2Proof.Machine

/-- One step of the machine: one turn (R119). -/
def step (s : State) : Host.Outcome State Fault Refusal := runTurn s

/-- The state in which the very next step runs the transaction a table word stands for (log entry 12). -/
def State.withFetchWord (s : State) (nbits w : Nat) : State := placeFirst (tableRequest nbits w) s

end Sys2Proof.Machine
end

