-- ==== Sys2Proof/Machine/Agents.lean ====
section
/-!
DEFINITION. What the agents of the described system do with the transactions: their alphabets (44_agents.md R121-R124), the
pseudo-transactions (30_encoding.md R64), the co-processor's tick and the host loop. The machine itself runs any
transaction of any agent; these definitions only name the runs of the system.
-/
namespace Sys2Proof.Machine

/-! ### Alphabets -/

/-- What the CPU agent issues (R122): the engine's four operations, no inbound receive and no teardown. -/
def cpuAgentIssues : Instr → Bool
  | .memRd _   => true
  | .memWr _ _ => true
  | .ioRd _    => true
  | .ioWr _ _  => true
  | _          => false

/-- What the HOST agent issues: the transactions of a tick (R124) and the quit of its loop (R123). -/
def hostAgentIssues : Instr → Bool
  | .outqTryrecv => true
  | .inqSend _   => true
  | .quit        => true
  | _            => false

/-- What the PROC agent issues (R118). -/
def procAgentIssues : Instr → Bool
  | .load _   => true
  | .start _  => true
  | .procExit => true
  | _         => false

/-- The alphabet of each agent of the described system. -/
def agentIssues : Agent → Instr → Bool
  | .cpu  => cpuAgentIssues
  | .host => hostAgentIssues
  | .proc => procAgentIssues

/-! ### Pseudo-transactions (R64) -/

/-- `TX v`. -/
def txTxn (c : Config) (v : Byte) : Instr := .ioWr c.txAddr v

/-- "The character's byte" (R64). DEDUCED from 95_test_vectors.md P2, which sends 'H' as 0x48: an ASCII character's byte
is its code. For any other character the spec states no byte: a free value. Log entry 14. -/
def charByte (ch : Char) : Byte := if ch.toNat < 128 then BitVec.ofNat 8 ch.toNat else Config.freeCharByte ch.toNat

/-- `TXS "s": one `TX` for each character's byte, in order. -/
def txsTxns (c : Config) (s : List Char) : List Instr := s.map (fun ch => txTxn c (charByte ch))

/-- `POLL_LSR`. -/
def pollLsrTxn (c : Config) : Instr := .ioRd c.lsrAddr

/-- `POLL_CTS`. -/
def pollCtsTxn (c : Config) : Instr := .ioRd c.ctsAddr

/-- `BOOT img`. -/
def bootTxns (img : Image) : List Instr := [.load img, .start true]

/-- `DRAIN`: `OUTQ_TRYRECV` repeated until the response is `EMPTY`, at most `fuel` times, with nothing interleaved. It
gives the responses, in order, and the state after. -/
def drain : Nat → State → List Response × State
  | 0, s => ([], s)
  | fuel + 1, s =>
    match exec .outqTryrecv s with
    | .next t =>
      match t.last with
      | .returned .empty => ([.empty], t)
      | .returned r      => (r :: (drain fuel t).1, (drain fuel t).2)
      | _                => ([], t)
    | _ => ([], s)

/-! ### Ticks and the host loop -/

/-- A HOST transaction that did not hold, with what came of it. -/
abbrev HostEvent := Instr × TxnResult

/-- What a HOST event is to the host loop (R123, R124). -/
inductive HostEventKind where
  /-- An `INQ_SEND` that returned. -/
  | send
  /-- An `OUTQ_TRYRECV` that took a byte. -/
  | took
  /-- An `OUTQ_TRYRECV` that met `EMPTY`: the `DRAIN` ends. -/
  | drained
  /-- The quit. -/
  | quit
  /-- An `INQ_SEND` that faulted: the domain stops (60_exceptions.md R132). -/
  | stopped
  /-- Anything else: not of the loop. -/
  | foreign
  deriving DecidableEq, Repr

/-- The kind of a HOST event. -/
def hostEventKind : HostEvent → HostEventKind
  | (.inqSend _, .returned .none)     => .send
  | (.outqTryrecv, .returned (.byte _)) => .took
  | (.outqTryrecv, .returned .empty)  => .drained
  | (.quit, .returned .none)          => .quit
  | (.inqSend _, .faulted _)          => .stopped
  | _ => .foreign

/-- The events of a tick from some point on: `ended` says whether its `DRAIN` has met `EMPTY`. Around the `DRAIN`, and
inside it, stands any number of `INQ_SEND`s, and nothing else (R124). -/
def tickFrom : Bool → List HostEvent → Bool
  | ended, []      => ended
  | ended, e :: es =>
    match hostEventKind e with
    | .send    => tickFrom ended es
    | .took    => !ended && tickFrom false es
    | .drained => !ended && tickFrom true es
    | .quit    => false
    | .stopped => false
    | .foreign => false

/-- The events of one co-processor tick (R124). -/
def isTick (es : List HostEvent) : Bool := tickFrom false es

/-- The HOST events of a finite run of the host loop (R123): whole ticks, one for each iteration, and then a quit, which
ends the loop; or a tick that the run's end cuts short, anywhere; or one that a faulting send cuts short. The handling of
input events and the sleep are not steps of the block. -/
def IsHostLoop (es : List HostEvent) : Prop :=
  ∃ (ticks : List (List HostEvent)) (rest : List HostEvent),
    es = ticks.flatten ++ rest ∧ (∀ t ∈ ticks, isTick t = true) ∧
    (rest = [(.quit, .returned .none)] ∨ (∃ more, isTick (rest ++ more) = true) ∨
      ∃ pre v f, rest = pre ++ [(.inqSend v, .faulted f)] ∧ ∃ more, isTick (pre ++ more) = true)

/-- Where the host loop is, as its events tell. -/
inductive LoopPos where
  /-- No event yet. -/
  | start
  /-- In a tick whose `DRAIN` has not ended. -/
  | inTick
  /-- The last `DRAIN` has ended, and only sends came after: the iteration may be over. -/
  | tickDone
  /-- The loop has ended, by a quit or by a fault. -/
  | over
  deriving DecidableEq, Repr

/-- The position after an event; none where the loop does not have that event. -/
def LoopPos.next (p : LoopPos) (k : HostEventKind) : Option LoopPos :=
  match p, k with
  | .over, _            => none
  | _, .foreign         => none
  | .tickDone, .send    => some .tickDone
  | _, .send            => some .inTick
  | _, .took            => some .inTick
  | _, .drained         => some .tickDone
  | .inTick, .quit      => none
  | _, .quit            => some .over
  | _, .stopped         => some .over

/-- The events can go on from a position. -/
def followsFrom : LoopPos → List HostEvent → Bool
  | _, []      => true
  | p, e :: es =>
    match p.next (hostEventKind e) with
    | some q => followsFrom q es
    | none   => false

/-- The events are those of a run of the host loop, told one event at a time. It agrees with `IsHostLoop`. -/
def followsHostLoop (es : List HostEvent) : Bool := followsFrom .start es

end Sys2Proof.Machine
end

