-- ==== Sys2Proof/Safety.lean ====
section
/-!
DEFINITION. What a safe run is: the invariants of the state, runs with an environment that issues transactions, and what
crosses a queue in a run. Claims are stated in these terms.
-/
namespace Sys2Proof.Machine

/-! ### Invariants -/

/-- Both byte stores are in canonical form, and list only cells that exist (10_state.md R17, R18). -/
def storesWf (s : State) : Bool :=
  Memory.wf s.mem && Memory.below s.cfg.total s.mem && Memory.wf s.io && Memory.below 65536 s.io

/-- Neither domain has started (R28). -/
def domainsIdle (s : State) : Bool := s.cpu == .idle && s.host == .idle

/-- Nothing of the block but `mem` and `phase` has left its reset value (70_reset_and_hazards.md R149). -/
def untouched (s : State) : Bool :=
  domainsIdle s && s.outq == [] && s.inq == [] && s.outqConsOpen && s.inqConsOpen && s.io == [] &&
    s.failCode == none

/-- What each phase says of the other lifecycle fields (10_state.md R27, R28, 43_lifecycle.md). -/
def phaseConsistent (s : State) : Bool :=
  match s.phase with
  | .preLoad => untouched s && s.mem == [] && s.exitCode == none
  | .loaded  => untouched s && s.exitCode == none
  | .running => s.cpu != .idle && s.host != .idle && s.host != .done && s.failCode == none && s.exitCode == none
  | .exiting => s.cpu != .idle && s.host == .done && !s.outqConsOpen && s.failCode == none && s.exitCode == none
  | .exited  => s.cpu != .idle && s.host == .done && !s.outqConsOpen && s.failCode == none && s.exitCode == some exitOk
  | .failed  =>
    domainsIdle s && (match s.failCode with
      | some f => f != .transportDisconnected .outbound && f != .transportDisconnected .inbound &&
          s.exitCode == some (exitCodeOf s.cfg f)
      | none   => false)

/-- A domain has faulted only by sending on a queue whose consumer endpoint is gone (60_exceptions.md R131). -/
def faultsJustified (s : State) : Bool :=
  (match s.cpu with
    | .faulted f => f == .transportDisconnected .outbound && !s.outqConsOpen
    | _          => true) &&
  (match s.host with
    | .faulted f => f == .transportDisconnected .inbound && !s.inqConsOpen
    | _          => true)

/-- The lifecycle invariant. -/
def lifecycleInv (s : State) : Bool := phaseConsistent s && faultsJustified s

/-- The transitions of `phase` (R27), staying included. -/
def phaseMayFollow : Phase → Phase → Bool
  | .preLoad, q => q == .preLoad || q == .loaded || q == .failed
  | .loaded, q  => q == .loaded || q == .running || q == .failed
  | .running, q => q == .running || q == .exiting
  | .exiting, q => q == .exiting || q == .exited
  | .exited, q  => q == .exited
  | .failed, q  => q == .failed

/-- Every transaction an agent has issued and that has not run is in that agent's alphabet (44_agents.md R122-R124). -/
def agentsKeepAlphabet (s : State) : Bool :=
  let ok (a : Agent) (r : Request) : Bool :=
    match decode s.cfg.addrWidth r with
    | .ok i    => agentIssues a i
    | .error _ => false
  s.cpuTxns.all (ok .cpu) && s.hostTxns.all (ok .host) && s.procTxns.all (ok .proc)

/-! ### Runs -/

/-- One act of a run: a step of the machine, or the outside world issuing a transaction or fixing a turn. -/
inductive Act where
  | step
  | issue (a : Agent) (r : Request)
  | schedule (a : Agent)
  deriving DecidableEq, Repr

/-- The state after an act; a machine that has no step stays. -/
def act (x : Act) (s : State) : State :=
  match x with
  | .step       => match step s with
    | .next t => t
    | _       => s
  | .issue a r  => s.issue a r
  | .schedule a => s.schedule a

/-- The state after a finite run. -/
def after : List Act → State → State
  | [], s      => s
  | x :: xs, s => after xs (act x s)

/-- The transaction that the next step runs, if it runs one. -/
def State.nextTxn (s : State) : Option Instr :=
  if configValid s.cfg ∧ ended s = none then
    match s.fetched with
    | .run i => some i
    | _      => none
  else none

/-- What a step of the machine runs and what comes of it. -/
def observed (s : State) : Option (Instr × TxnResult) :=
  match s.nextTxn, step s with
  | some i, .next t => some (i, t.last)
  | _, _            => none

/-- The bytes an observed transaction sends on `outq`: an `IO_WR P_TX_ADDR` that returns (R83). -/
def sentOut (c : Config) : Option (Instr × TxnResult) → List Byte
  | some (.ioWr p v, .returned _) => if p = c.txAddr then [v] else []
  | _ => []

/-- The bytes an observed transaction receives from `outq`. -/
def receivedOut : Option (Instr × TxnResult) → List Byte
  | some (.outqTryrecv, .returned (.byte b)) => [b]
  | some (.outqRecv, .returned (.byte b))    => [b]
  | _ => []

/-- The bytes an observed transaction sends on `inq`. -/
def sentIn : Option (Instr × TxnResult) → List Byte
  | some (.inqSend v, .returned _) => [v]
  | _ => []

/-- The bytes an observed transaction receives from `inq`. -/
def receivedIn : Option (Instr × TxnResult) → List Byte
  | some (.inqTryrecv, .returned (.byte b)) => [b]
  | some (.inqRecv, .returned (.byte b))    => [b]
  | _ => []

/-- What an act of a run lets one observe: a step's transaction; issuing and scheduling show nothing. -/
def actObserved (x : Act) (s : State) : Option (Instr × TxnResult) :=
  match x with
  | .step       => observed s
  | .issue _ _  => none
  | .schedule _ => none

/-- The bytes, or the events, that go by in a run, as `f` reads them off each act, in order. -/
def tally {α : Type} (f : Config → Option (Instr × TxnResult) → List α) : List Act → State → List α
  | [], _      => []
  | x :: xs, s => f s.cfg (actObserved x s) ++ tally f xs (act x s)

/-- The HOST event of an observed transaction: one that HOST owns and that did not hold. -/
def hostEvents : Option (Instr × TxnResult) → List HostEvent
  | some (i, r) => if issuer i = .host ∧ r ≠ .held then [(i, r)] else []
  | none        => []

/-- An act of the described system issues what its agent issues (44_agents.md R122-R124). -/
def actKeepsAlphabet (c : Config) (x : Act) : Bool :=
  match x with
  | .step       => true
  | .issue a r  => match decode c.addrWidth r with
    | .ok i    => agentIssues a i
    | .error _ => false
  | .schedule _ => true

/-- A finite run of the described system: its agents have issued and issue what they may, and its HOST events are those of the host
loop, so a quit comes between ticks and not inside a `DRAIN` (R123). -/
def describedRun (acts : List Act) (s : State) : Bool :=
  agentsKeepAlphabet s && acts.all (actKeepsAlphabet s.cfg) && followsHostLoop (tally (fun _ => hostEvents) acts s)

/-- The state after one transaction, issued by its owner. -/
def runTxn (i : Instr) (s : State) : State :=
  match exec i s with
  | .next t => t
  | _       => s

/-- The state after several transactions, in order, each issued by its owner. -/
def runTxns : List Instr → State → State
  | [], s      => s
  | i :: is, s => runTxns is (runTxn i s)

/-- The bytes that a list of transactions writes to `P_TX_ADDR`, in order (41_port_io.md R83). -/
def transmitted (c : Config) : List Instr → List Byte
  | []              => []
  | .ioWr p v :: is => if p = c.txAddr then v :: transmitted c is else transmitted c is
  | _ :: is         => transmitted c is

/-! ### Infinite runs and fairness (44_agents.md R127) -/

/-- An infinite run: the states and the acts between them. -/
def IsRun (st : Nat → State) (acts : Nat → Act) : Prop := ∀ n, st (n + 1) = act (acts n) (st n)

/-- The agent is a domain that is `ACTIVE`. PROC is no domain (R118). -/
def State.domainActive (s : State) : Agent → Bool
  | .cpu  => s.cpu == .active
  | .host => s.host == .active
  | .proc => false

/-- The transaction takes its step in this state: it responds or faults, and is neither held nor refused. -/
def takesStep (i : Instr) (s : State) : Bool :=
  match exec i s with
  | .next t => match t.last with
    | .returned _ => true
    | .faulted _  => true
    | _           => false
  | _ => false

/-- The enabled transaction of an `ACTIVE` domain: its next one, if that would take its step now. -/
def State.readyTxn (s : State) (a : Agent) : Option Instr :=
  if s.domainActive a && configValid s.cfg && !terminal s then
    match s.txns a with
    | []     => none
    | r :: _ => match checkRequest s.cfg a r with
      | .run i     => if takesStep i s then some i else none
      | .refused _ => none
      | .idle      => none
  else none

/-- "Each enabled transaction of an `ACTIVE` domain that stays enabled is eventually taken" (R127): its agent has a
turn. -/
def WeaklyFair (st : Nat → State) (acts : Nat → Act) : Prop :=
  ∀ a i n, (∀ m, n ≤ m → (st m).readyTxn a = some i) → ∃ m, n ≤ m ∧ acts m = .step ∧ (st m).turn = a

/-- From point `n` on, some `DRAIN` ends. -/
def DrainEnds (st : Nat → State) (acts : Nat → Act) (n : Nat) : Prop :=
  ∃ m, n ≤ m ∧ hostEvents (actObserved (acts m) (st m)) = [(.outqTryrecv, .returned .empty)]

/-- From point `n` on, the host goes on taking bytes for ever (R125). -/
def DrainGoesOn (st : Nat → State) (acts : Nat → Act) (n : Nat) : Prop :=
  ∀ k, n ≤ k → ∃ m, k ≤ m ∧ ∃ b, hostEvents (actObserved (acts m) (st m)) = [(.outqTryrecv, .returned (.byte b))]

/-- "While `host = ACTIVE`, the host domain completes another loop iteration" (R127): it leaves `ACTIVE`, or the
`DRAIN` of its tick ends, or, as R125 keeps it, the `DRAIN` goes on for ever because the queue is never found empty. Log
entry 15. -/
def HostIterates (st : Nat → State) (acts : Nat → Act) : Prop :=
  ∀ n, (st n).host = .active → (∃ m, n ≤ m ∧ (st m).host ≠ .active) ∨ DrainEnds st acts n ∨ DrainGoesOn st acts n

/-- The weak fairness of R127, a premise of liveness claims alone. Runs that quit are among the fair ones. -/
structure Fair (st : Nat → State) (acts : Nat → Act) : Prop where
  taken    : WeaklyFair st acts
  iterates : HostIterates st acts

/-- The host domain goes on polling: from every point on, some step runs its `OUTQ_TRYRECV`. It is a fairness premise of
its own, for a host that keeps ticking and does not quit. -/
def HostKeepsPolling (st : Nat → State) (acts : Nat → Act) : Prop :=
  ∀ n, ∃ m, n ≤ m ∧ acts m = .step ∧ (st m).nextTxn = some .outqTryrecv ∧ hostEnabled (st m) = true

/-- The acts of an infinite run from point `n` on, `k` of them. -/
def actsFrom (acts : Nat → Act) (n k : Nat) : List Act := (List.range k).map (fun j => acts (n + j))

/-! ### What cannot be seen -/

/-- Two states that differ at most in the hidden bytes under synthetic ports (10_state.md R20). -/
def sameButHidden (s t : State) : Prop :=
  { s with io := [] } = { t with io := [] } ∧
    ∀ p : Port, isSynthetic s.cfg p = false → Memory.get s.io p.toNat = Memory.get t.io p.toNat

end Sys2Proof.Machine
end

