-- ==== Sys2Proof/Laws/State.lean ====
section
/-!
SUPPORT. Every named operation, field by field: what it writes, and that it writes nothing else. Each lemma is true by
definition and a simp lemma, so no proof unfolds a record update.
-/
namespace Sys2Proof.Machine

/-! ### respond -/

@[simp] theorem respond_mem (r : Response) (s : State) : (respond r s).mem = s.mem := rfl
@[simp] theorem respond_io (r : Response) (s : State) : (respond r s).io = s.io := rfl
@[simp] theorem respond_outq (r : Response) (s : State) : (respond r s).outq = s.outq := rfl
@[simp] theorem respond_inq (r : Response) (s : State) : (respond r s).inq = s.inq := rfl
@[simp] theorem respond_outqConsOpen (r : Response) (s : State) : (respond r s).outqConsOpen = s.outqConsOpen := rfl
@[simp] theorem respond_inqConsOpen (r : Response) (s : State) : (respond r s).inqConsOpen = s.inqConsOpen := rfl
@[simp] theorem respond_phase (r : Response) (s : State) : (respond r s).phase = s.phase := rfl
@[simp] theorem respond_cpu (r : Response) (s : State) : (respond r s).cpu = s.cpu := rfl
@[simp] theorem respond_host (r : Response) (s : State) : (respond r s).host = s.host := rfl
@[simp] theorem respond_failCode (r : Response) (s : State) : (respond r s).failCode = s.failCode := rfl
@[simp] theorem respond_exitCode (r : Response) (s : State) : (respond r s).exitCode = s.exitCode := rfl
@[simp] theorem respond_refused (r : Response) (s : State) : (respond r s).refused = s.refused := rfl
@[simp] theorem respond_cfg (r : Response) (s : State) : (respond r s).cfg = s.cfg := rfl
@[simp] theorem respond_cpuTxns (r : Response) (s : State) : (respond r s).cpuTxns = s.cpuTxns := rfl
@[simp] theorem respond_hostTxns (r : Response) (s : State) : (respond r s).hostTxns = s.hostTxns := rfl
@[simp] theorem respond_procTxns (r : Response) (s : State) : (respond r s).procTxns = s.procTxns := rfl
@[simp] theorem respond_sched (r : Response) (s : State) : (respond r s).sched = s.sched := rfl
@[simp] theorem respond_draws (r : Response) (s : State) : (respond r s).draws = s.draws := rfl
@[simp] theorem respond_last (r : Response) (s : State) : (respond r s).last = .returned r := rfl

/-! ### hold -/

@[simp] theorem hold_mem (s : State) : (hold s).mem = s.mem := rfl
@[simp] theorem hold_io (s : State) : (hold s).io = s.io := rfl
@[simp] theorem hold_outq (s : State) : (hold s).outq = s.outq := rfl
@[simp] theorem hold_inq (s : State) : (hold s).inq = s.inq := rfl
@[simp] theorem hold_outqConsOpen (s : State) : (hold s).outqConsOpen = s.outqConsOpen := rfl
@[simp] theorem hold_inqConsOpen (s : State) : (hold s).inqConsOpen = s.inqConsOpen := rfl
@[simp] theorem hold_phase (s : State) : (hold s).phase = s.phase := rfl
@[simp] theorem hold_cpu (s : State) : (hold s).cpu = s.cpu := rfl
@[simp] theorem hold_host (s : State) : (hold s).host = s.host := rfl
@[simp] theorem hold_failCode (s : State) : (hold s).failCode = s.failCode := rfl
@[simp] theorem hold_exitCode (s : State) : (hold s).exitCode = s.exitCode := rfl
@[simp] theorem hold_refused (s : State) : (hold s).refused = s.refused := rfl
@[simp] theorem hold_cfg (s : State) : (hold s).cfg = s.cfg := rfl
@[simp] theorem hold_cpuTxns (s : State) : (hold s).cpuTxns = s.cpuTxns := rfl
@[simp] theorem hold_hostTxns (s : State) : (hold s).hostTxns = s.hostTxns := rfl
@[simp] theorem hold_procTxns (s : State) : (hold s).procTxns = s.procTxns := rfl
@[simp] theorem hold_sched (s : State) : (hold s).sched = s.sched := rfl
@[simp] theorem hold_draws (s : State) : (hold s).draws = s.draws := rfl
@[simp] theorem hold_last (s : State) : (hold s).last = .held := rfl

/-! ### refuse -/

@[simp] theorem refuse_mem (r : RefuseReason) (s : State) : (refuse r s).mem = s.mem := rfl
@[simp] theorem refuse_io (r : RefuseReason) (s : State) : (refuse r s).io = s.io := rfl
@[simp] theorem refuse_outq (r : RefuseReason) (s : State) : (refuse r s).outq = s.outq := rfl
@[simp] theorem refuse_inq (r : RefuseReason) (s : State) : (refuse r s).inq = s.inq := rfl
@[simp] theorem refuse_outqConsOpen (r : RefuseReason) (s : State) : (refuse r s).outqConsOpen = s.outqConsOpen := rfl
@[simp] theorem refuse_inqConsOpen (r : RefuseReason) (s : State) : (refuse r s).inqConsOpen = s.inqConsOpen := rfl
@[simp] theorem refuse_phase (r : RefuseReason) (s : State) : (refuse r s).phase = s.phase := rfl
@[simp] theorem refuse_cpu (r : RefuseReason) (s : State) : (refuse r s).cpu = s.cpu := rfl
@[simp] theorem refuse_host (r : RefuseReason) (s : State) : (refuse r s).host = s.host := rfl
@[simp] theorem refuse_failCode (r : RefuseReason) (s : State) : (refuse r s).failCode = s.failCode := rfl
@[simp] theorem refuse_exitCode (r : RefuseReason) (s : State) : (refuse r s).exitCode = s.exitCode := rfl
@[simp] theorem refuse_refused (r : RefuseReason) (s : State) : (refuse r s).refused = true := rfl
@[simp] theorem refuse_cfg (r : RefuseReason) (s : State) : (refuse r s).cfg = s.cfg := rfl
@[simp] theorem refuse_cpuTxns (r : RefuseReason) (s : State) : (refuse r s).cpuTxns = s.cpuTxns := rfl
@[simp] theorem refuse_hostTxns (r : RefuseReason) (s : State) : (refuse r s).hostTxns = s.hostTxns := rfl
@[simp] theorem refuse_procTxns (r : RefuseReason) (s : State) : (refuse r s).procTxns = s.procTxns := rfl
@[simp] theorem refuse_sched (r : RefuseReason) (s : State) : (refuse r s).sched = s.sched := rfl
@[simp] theorem refuse_draws (r : RefuseReason) (s : State) : (refuse r s).draws = s.draws := rfl
@[simp] theorem refuse_last (r : RefuseReason) (s : State) : (refuse r s).last = .refused r := rfl

/-! ### failStartup -/

@[simp] theorem failStartup_mem (f : BlockFault) (s : State) : (failStartup f s).mem = s.mem := rfl
@[simp] theorem failStartup_io (f : BlockFault) (s : State) : (failStartup f s).io = s.io := rfl
@[simp] theorem failStartup_outq (f : BlockFault) (s : State) : (failStartup f s).outq = s.outq := rfl
@[simp] theorem failStartup_inq (f : BlockFault) (s : State) : (failStartup f s).inq = s.inq := rfl
@[simp] theorem failStartup_outqConsOpen (f : BlockFault) (s : State) : (failStartup f s).outqConsOpen = s.outqConsOpen := rfl
@[simp] theorem failStartup_inqConsOpen (f : BlockFault) (s : State) : (failStartup f s).inqConsOpen = s.inqConsOpen := rfl
@[simp] theorem failStartup_phase (f : BlockFault) (s : State) : (failStartup f s).phase = .failed := rfl
@[simp] theorem failStartup_cpu (f : BlockFault) (s : State) : (failStartup f s).cpu = s.cpu := rfl
@[simp] theorem failStartup_host (f : BlockFault) (s : State) : (failStartup f s).host = s.host := rfl
@[simp] theorem failStartup_failCode (f : BlockFault) (s : State) : (failStartup f s).failCode = some f := rfl
@[simp] theorem failStartup_exitCode (f : BlockFault) (s : State) : (failStartup f s).exitCode = some (exitCodeOf s.cfg f) := rfl
@[simp] theorem failStartup_refused (f : BlockFault) (s : State) : (failStartup f s).refused = s.refused := rfl
@[simp] theorem failStartup_cfg (f : BlockFault) (s : State) : (failStartup f s).cfg = s.cfg := rfl
@[simp] theorem failStartup_cpuTxns (f : BlockFault) (s : State) : (failStartup f s).cpuTxns = s.cpuTxns := rfl
@[simp] theorem failStartup_hostTxns (f : BlockFault) (s : State) : (failStartup f s).hostTxns = s.hostTxns := rfl
@[simp] theorem failStartup_procTxns (f : BlockFault) (s : State) : (failStartup f s).procTxns = s.procTxns := rfl
@[simp] theorem failStartup_sched (f : BlockFault) (s : State) : (failStartup f s).sched = s.sched := rfl
@[simp] theorem failStartup_draws (f : BlockFault) (s : State) : (failStartup f s).draws = s.draws := rfl
@[simp] theorem failStartup_last (f : BlockFault) (s : State) : (failStartup f s).last = .faulted f := rfl

/-! ### stopCpu -/

@[simp] theorem stopCpu_mem (f : BlockFault) (s : State) : (stopCpu f s).mem = s.mem := rfl
@[simp] theorem stopCpu_io (f : BlockFault) (s : State) : (stopCpu f s).io = s.io := rfl
@[simp] theorem stopCpu_outq (f : BlockFault) (s : State) : (stopCpu f s).outq = s.outq := rfl
@[simp] theorem stopCpu_inq (f : BlockFault) (s : State) : (stopCpu f s).inq = s.inq := rfl
@[simp] theorem stopCpu_outqConsOpen (f : BlockFault) (s : State) : (stopCpu f s).outqConsOpen = s.outqConsOpen := rfl
@[simp] theorem stopCpu_inqConsOpen (f : BlockFault) (s : State) : (stopCpu f s).inqConsOpen = s.inqConsOpen := rfl
@[simp] theorem stopCpu_phase (f : BlockFault) (s : State) : (stopCpu f s).phase = s.phase := rfl
@[simp] theorem stopCpu_cpu (f : BlockFault) (s : State) : (stopCpu f s).cpu = .faulted f := rfl
@[simp] theorem stopCpu_host (f : BlockFault) (s : State) : (stopCpu f s).host = s.host := rfl
@[simp] theorem stopCpu_failCode (f : BlockFault) (s : State) : (stopCpu f s).failCode = s.failCode := rfl
@[simp] theorem stopCpu_exitCode (f : BlockFault) (s : State) : (stopCpu f s).exitCode = s.exitCode := rfl
@[simp] theorem stopCpu_refused (f : BlockFault) (s : State) : (stopCpu f s).refused = s.refused := rfl
@[simp] theorem stopCpu_cfg (f : BlockFault) (s : State) : (stopCpu f s).cfg = s.cfg := rfl
@[simp] theorem stopCpu_cpuTxns (f : BlockFault) (s : State) : (stopCpu f s).cpuTxns = s.cpuTxns := rfl
@[simp] theorem stopCpu_hostTxns (f : BlockFault) (s : State) : (stopCpu f s).hostTxns = s.hostTxns := rfl
@[simp] theorem stopCpu_procTxns (f : BlockFault) (s : State) : (stopCpu f s).procTxns = s.procTxns := rfl
@[simp] theorem stopCpu_sched (f : BlockFault) (s : State) : (stopCpu f s).sched = s.sched := rfl
@[simp] theorem stopCpu_draws (f : BlockFault) (s : State) : (stopCpu f s).draws = s.draws := rfl
@[simp] theorem stopCpu_last (f : BlockFault) (s : State) : (stopCpu f s).last = .faulted f := rfl

/-! ### stopHost -/

@[simp] theorem stopHost_mem (f : BlockFault) (s : State) : (stopHost f s).mem = s.mem := rfl
@[simp] theorem stopHost_io (f : BlockFault) (s : State) : (stopHost f s).io = s.io := rfl
@[simp] theorem stopHost_outq (f : BlockFault) (s : State) : (stopHost f s).outq = s.outq := rfl
@[simp] theorem stopHost_inq (f : BlockFault) (s : State) : (stopHost f s).inq = s.inq := rfl
@[simp] theorem stopHost_outqConsOpen (f : BlockFault) (s : State) : (stopHost f s).outqConsOpen = s.outqConsOpen := rfl
@[simp] theorem stopHost_inqConsOpen (f : BlockFault) (s : State) : (stopHost f s).inqConsOpen = s.inqConsOpen := rfl
@[simp] theorem stopHost_phase (f : BlockFault) (s : State) : (stopHost f s).phase = s.phase := rfl
@[simp] theorem stopHost_cpu (f : BlockFault) (s : State) : (stopHost f s).cpu = s.cpu := rfl
@[simp] theorem stopHost_host (f : BlockFault) (s : State) : (stopHost f s).host = .faulted f := rfl
@[simp] theorem stopHost_failCode (f : BlockFault) (s : State) : (stopHost f s).failCode = s.failCode := rfl
@[simp] theorem stopHost_exitCode (f : BlockFault) (s : State) : (stopHost f s).exitCode = s.exitCode := rfl
@[simp] theorem stopHost_refused (f : BlockFault) (s : State) : (stopHost f s).refused = s.refused := rfl
@[simp] theorem stopHost_cfg (f : BlockFault) (s : State) : (stopHost f s).cfg = s.cfg := rfl
@[simp] theorem stopHost_cpuTxns (f : BlockFault) (s : State) : (stopHost f s).cpuTxns = s.cpuTxns := rfl
@[simp] theorem stopHost_hostTxns (f : BlockFault) (s : State) : (stopHost f s).hostTxns = s.hostTxns := rfl
@[simp] theorem stopHost_procTxns (f : BlockFault) (s : State) : (stopHost f s).procTxns = s.procTxns := rfl
@[simp] theorem stopHost_sched (f : BlockFault) (s : State) : (stopHost f s).sched = s.sched := rfl
@[simp] theorem stopHost_draws (f : BlockFault) (s : State) : (stopHost f s).draws = s.draws := rfl
@[simp] theorem stopHost_last (f : BlockFault) (s : State) : (stopHost f s).last = .faulted f := rfl

/-! ### memWrite -/

@[simp] theorem memWrite_mem (a : MemAddr) (v : Byte) (s : State) : (memWrite a v s).mem = if inRange s.cfg a then Memory.set s.mem a.toNat v else s.mem := rfl
@[simp] theorem memWrite_io (a : MemAddr) (v : Byte) (s : State) : (memWrite a v s).io = s.io := rfl
@[simp] theorem memWrite_outq (a : MemAddr) (v : Byte) (s : State) : (memWrite a v s).outq = s.outq := rfl
@[simp] theorem memWrite_inq (a : MemAddr) (v : Byte) (s : State) : (memWrite a v s).inq = s.inq := rfl
@[simp] theorem memWrite_outqConsOpen (a : MemAddr) (v : Byte) (s : State) : (memWrite a v s).outqConsOpen = s.outqConsOpen := rfl
@[simp] theorem memWrite_inqConsOpen (a : MemAddr) (v : Byte) (s : State) : (memWrite a v s).inqConsOpen = s.inqConsOpen := rfl
@[simp] theorem memWrite_phase (a : MemAddr) (v : Byte) (s : State) : (memWrite a v s).phase = s.phase := rfl
@[simp] theorem memWrite_cpu (a : MemAddr) (v : Byte) (s : State) : (memWrite a v s).cpu = s.cpu := rfl
@[simp] theorem memWrite_host (a : MemAddr) (v : Byte) (s : State) : (memWrite a v s).host = s.host := rfl
@[simp] theorem memWrite_failCode (a : MemAddr) (v : Byte) (s : State) : (memWrite a v s).failCode = s.failCode := rfl
@[simp] theorem memWrite_exitCode (a : MemAddr) (v : Byte) (s : State) : (memWrite a v s).exitCode = s.exitCode := rfl
@[simp] theorem memWrite_refused (a : MemAddr) (v : Byte) (s : State) : (memWrite a v s).refused = s.refused := rfl
@[simp] theorem memWrite_cfg (a : MemAddr) (v : Byte) (s : State) : (memWrite a v s).cfg = s.cfg := rfl
@[simp] theorem memWrite_cpuTxns (a : MemAddr) (v : Byte) (s : State) : (memWrite a v s).cpuTxns = s.cpuTxns := rfl
@[simp] theorem memWrite_hostTxns (a : MemAddr) (v : Byte) (s : State) : (memWrite a v s).hostTxns = s.hostTxns := rfl
@[simp] theorem memWrite_procTxns (a : MemAddr) (v : Byte) (s : State) : (memWrite a v s).procTxns = s.procTxns := rfl
@[simp] theorem memWrite_sched (a : MemAddr) (v : Byte) (s : State) : (memWrite a v s).sched = s.sched := rfl
@[simp] theorem memWrite_draws (a : MemAddr) (v : Byte) (s : State) : (memWrite a v s).draws = s.draws := rfl
@[simp] theorem memWrite_last (a : MemAddr) (v : Byte) (s : State) : (memWrite a v s).last = s.last := rfl

/-! ### portStore -/

@[simp] theorem portStore_mem (p : Port) (v : Byte) (s : State) : (portStore p v s).mem = s.mem := rfl
@[simp] theorem portStore_io (p : Port) (v : Byte) (s : State) : (portStore p v s).io = Memory.set s.io p.toNat v := rfl
@[simp] theorem portStore_outq (p : Port) (v : Byte) (s : State) : (portStore p v s).outq = s.outq := rfl
@[simp] theorem portStore_inq (p : Port) (v : Byte) (s : State) : (portStore p v s).inq = s.inq := rfl
@[simp] theorem portStore_outqConsOpen (p : Port) (v : Byte) (s : State) : (portStore p v s).outqConsOpen = s.outqConsOpen := rfl
@[simp] theorem portStore_inqConsOpen (p : Port) (v : Byte) (s : State) : (portStore p v s).inqConsOpen = s.inqConsOpen := rfl
@[simp] theorem portStore_phase (p : Port) (v : Byte) (s : State) : (portStore p v s).phase = s.phase := rfl
@[simp] theorem portStore_cpu (p : Port) (v : Byte) (s : State) : (portStore p v s).cpu = s.cpu := rfl
@[simp] theorem portStore_host (p : Port) (v : Byte) (s : State) : (portStore p v s).host = s.host := rfl
@[simp] theorem portStore_failCode (p : Port) (v : Byte) (s : State) : (portStore p v s).failCode = s.failCode := rfl
@[simp] theorem portStore_exitCode (p : Port) (v : Byte) (s : State) : (portStore p v s).exitCode = s.exitCode := rfl
@[simp] theorem portStore_refused (p : Port) (v : Byte) (s : State) : (portStore p v s).refused = s.refused := rfl
@[simp] theorem portStore_cfg (p : Port) (v : Byte) (s : State) : (portStore p v s).cfg = s.cfg := rfl
@[simp] theorem portStore_cpuTxns (p : Port) (v : Byte) (s : State) : (portStore p v s).cpuTxns = s.cpuTxns := rfl
@[simp] theorem portStore_hostTxns (p : Port) (v : Byte) (s : State) : (portStore p v s).hostTxns = s.hostTxns := rfl
@[simp] theorem portStore_procTxns (p : Port) (v : Byte) (s : State) : (portStore p v s).procTxns = s.procTxns := rfl
@[simp] theorem portStore_sched (p : Port) (v : Byte) (s : State) : (portStore p v s).sched = s.sched := rfl
@[simp] theorem portStore_draws (p : Port) (v : Byte) (s : State) : (portStore p v s).draws = s.draws := rfl
@[simp] theorem portStore_last (p : Port) (v : Byte) (s : State) : (portStore p v s).last = s.last := rfl

/-! ### enqOut -/

@[simp] theorem enqOut_mem (v : Byte) (s : State) : (enqOut v s).mem = s.mem := rfl
@[simp] theorem enqOut_io (v : Byte) (s : State) : (enqOut v s).io = s.io := rfl
@[simp] theorem enqOut_outq (v : Byte) (s : State) : (enqOut v s).outq = s.outq ++ [v] := rfl
@[simp] theorem enqOut_inq (v : Byte) (s : State) : (enqOut v s).inq = s.inq := rfl
@[simp] theorem enqOut_outqConsOpen (v : Byte) (s : State) : (enqOut v s).outqConsOpen = s.outqConsOpen := rfl
@[simp] theorem enqOut_inqConsOpen (v : Byte) (s : State) : (enqOut v s).inqConsOpen = s.inqConsOpen := rfl
@[simp] theorem enqOut_phase (v : Byte) (s : State) : (enqOut v s).phase = s.phase := rfl
@[simp] theorem enqOut_cpu (v : Byte) (s : State) : (enqOut v s).cpu = s.cpu := rfl
@[simp] theorem enqOut_host (v : Byte) (s : State) : (enqOut v s).host = s.host := rfl
@[simp] theorem enqOut_failCode (v : Byte) (s : State) : (enqOut v s).failCode = s.failCode := rfl
@[simp] theorem enqOut_exitCode (v : Byte) (s : State) : (enqOut v s).exitCode = s.exitCode := rfl
@[simp] theorem enqOut_refused (v : Byte) (s : State) : (enqOut v s).refused = s.refused := rfl
@[simp] theorem enqOut_cfg (v : Byte) (s : State) : (enqOut v s).cfg = s.cfg := rfl
@[simp] theorem enqOut_cpuTxns (v : Byte) (s : State) : (enqOut v s).cpuTxns = s.cpuTxns := rfl
@[simp] theorem enqOut_hostTxns (v : Byte) (s : State) : (enqOut v s).hostTxns = s.hostTxns := rfl
@[simp] theorem enqOut_procTxns (v : Byte) (s : State) : (enqOut v s).procTxns = s.procTxns := rfl
@[simp] theorem enqOut_sched (v : Byte) (s : State) : (enqOut v s).sched = s.sched := rfl
@[simp] theorem enqOut_draws (v : Byte) (s : State) : (enqOut v s).draws = s.draws := rfl
@[simp] theorem enqOut_last (v : Byte) (s : State) : (enqOut v s).last = s.last := rfl

/-! ### enqIn -/

@[simp] theorem enqIn_mem (v : Byte) (s : State) : (enqIn v s).mem = s.mem := rfl
@[simp] theorem enqIn_io (v : Byte) (s : State) : (enqIn v s).io = s.io := rfl
@[simp] theorem enqIn_outq (v : Byte) (s : State) : (enqIn v s).outq = s.outq := rfl
@[simp] theorem enqIn_inq (v : Byte) (s : State) : (enqIn v s).inq = s.inq ++ [v] := rfl
@[simp] theorem enqIn_outqConsOpen (v : Byte) (s : State) : (enqIn v s).outqConsOpen = s.outqConsOpen := rfl
@[simp] theorem enqIn_inqConsOpen (v : Byte) (s : State) : (enqIn v s).inqConsOpen = s.inqConsOpen := rfl
@[simp] theorem enqIn_phase (v : Byte) (s : State) : (enqIn v s).phase = s.phase := rfl
@[simp] theorem enqIn_cpu (v : Byte) (s : State) : (enqIn v s).cpu = s.cpu := rfl
@[simp] theorem enqIn_host (v : Byte) (s : State) : (enqIn v s).host = s.host := rfl
@[simp] theorem enqIn_failCode (v : Byte) (s : State) : (enqIn v s).failCode = s.failCode := rfl
@[simp] theorem enqIn_exitCode (v : Byte) (s : State) : (enqIn v s).exitCode = s.exitCode := rfl
@[simp] theorem enqIn_refused (v : Byte) (s : State) : (enqIn v s).refused = s.refused := rfl
@[simp] theorem enqIn_cfg (v : Byte) (s : State) : (enqIn v s).cfg = s.cfg := rfl
@[simp] theorem enqIn_cpuTxns (v : Byte) (s : State) : (enqIn v s).cpuTxns = s.cpuTxns := rfl
@[simp] theorem enqIn_hostTxns (v : Byte) (s : State) : (enqIn v s).hostTxns = s.hostTxns := rfl
@[simp] theorem enqIn_procTxns (v : Byte) (s : State) : (enqIn v s).procTxns = s.procTxns := rfl
@[simp] theorem enqIn_sched (v : Byte) (s : State) : (enqIn v s).sched = s.sched := rfl
@[simp] theorem enqIn_draws (v : Byte) (s : State) : (enqIn v s).draws = s.draws := rfl
@[simp] theorem enqIn_last (v : Byte) (s : State) : (enqIn v s).last = s.last := rfl

/-! ### dropOut -/

@[simp] theorem dropOut_mem (s : State) : (dropOut s).mem = s.mem := rfl
@[simp] theorem dropOut_io (s : State) : (dropOut s).io = s.io := rfl
@[simp] theorem dropOut_outq (s : State) : (dropOut s).outq = s.outq.tail := rfl
@[simp] theorem dropOut_inq (s : State) : (dropOut s).inq = s.inq := rfl
@[simp] theorem dropOut_outqConsOpen (s : State) : (dropOut s).outqConsOpen = s.outqConsOpen := rfl
@[simp] theorem dropOut_inqConsOpen (s : State) : (dropOut s).inqConsOpen = s.inqConsOpen := rfl
@[simp] theorem dropOut_phase (s : State) : (dropOut s).phase = s.phase := rfl
@[simp] theorem dropOut_cpu (s : State) : (dropOut s).cpu = s.cpu := rfl
@[simp] theorem dropOut_host (s : State) : (dropOut s).host = s.host := rfl
@[simp] theorem dropOut_failCode (s : State) : (dropOut s).failCode = s.failCode := rfl
@[simp] theorem dropOut_exitCode (s : State) : (dropOut s).exitCode = s.exitCode := rfl
@[simp] theorem dropOut_refused (s : State) : (dropOut s).refused = s.refused := rfl
@[simp] theorem dropOut_cfg (s : State) : (dropOut s).cfg = s.cfg := rfl
@[simp] theorem dropOut_cpuTxns (s : State) : (dropOut s).cpuTxns = s.cpuTxns := rfl
@[simp] theorem dropOut_hostTxns (s : State) : (dropOut s).hostTxns = s.hostTxns := rfl
@[simp] theorem dropOut_procTxns (s : State) : (dropOut s).procTxns = s.procTxns := rfl
@[simp] theorem dropOut_sched (s : State) : (dropOut s).sched = s.sched := rfl
@[simp] theorem dropOut_draws (s : State) : (dropOut s).draws = s.draws := rfl
@[simp] theorem dropOut_last (s : State) : (dropOut s).last = s.last := rfl

/-! ### dropIn -/

@[simp] theorem dropIn_mem (s : State) : (dropIn s).mem = s.mem := rfl
@[simp] theorem dropIn_io (s : State) : (dropIn s).io = s.io := rfl
@[simp] theorem dropIn_outq (s : State) : (dropIn s).outq = s.outq := rfl
@[simp] theorem dropIn_inq (s : State) : (dropIn s).inq = s.inq.tail := rfl
@[simp] theorem dropIn_outqConsOpen (s : State) : (dropIn s).outqConsOpen = s.outqConsOpen := rfl
@[simp] theorem dropIn_inqConsOpen (s : State) : (dropIn s).inqConsOpen = s.inqConsOpen := rfl
@[simp] theorem dropIn_phase (s : State) : (dropIn s).phase = s.phase := rfl
@[simp] theorem dropIn_cpu (s : State) : (dropIn s).cpu = s.cpu := rfl
@[simp] theorem dropIn_host (s : State) : (dropIn s).host = s.host := rfl
@[simp] theorem dropIn_failCode (s : State) : (dropIn s).failCode = s.failCode := rfl
@[simp] theorem dropIn_exitCode (s : State) : (dropIn s).exitCode = s.exitCode := rfl
@[simp] theorem dropIn_refused (s : State) : (dropIn s).refused = s.refused := rfl
@[simp] theorem dropIn_cfg (s : State) : (dropIn s).cfg = s.cfg := rfl
@[simp] theorem dropIn_cpuTxns (s : State) : (dropIn s).cpuTxns = s.cpuTxns := rfl
@[simp] theorem dropIn_hostTxns (s : State) : (dropIn s).hostTxns = s.hostTxns := rfl
@[simp] theorem dropIn_procTxns (s : State) : (dropIn s).procTxns = s.procTxns := rfl
@[simp] theorem dropIn_sched (s : State) : (dropIn s).sched = s.sched := rfl
@[simp] theorem dropIn_draws (s : State) : (dropIn s).draws = s.draws := rfl
@[simp] theorem dropIn_last (s : State) : (dropIn s).last = s.last := rfl

/-! ### closeOut -/

@[simp] theorem closeOut_mem (s : State) : (closeOut s).mem = s.mem := rfl
@[simp] theorem closeOut_io (s : State) : (closeOut s).io = s.io := rfl
@[simp] theorem closeOut_outq (s : State) : (closeOut s).outq = s.outq := rfl
@[simp] theorem closeOut_inq (s : State) : (closeOut s).inq = s.inq := rfl
@[simp] theorem closeOut_outqConsOpen (s : State) : (closeOut s).outqConsOpen = false := rfl
@[simp] theorem closeOut_inqConsOpen (s : State) : (closeOut s).inqConsOpen = s.inqConsOpen := rfl
@[simp] theorem closeOut_phase (s : State) : (closeOut s).phase = s.phase := rfl
@[simp] theorem closeOut_cpu (s : State) : (closeOut s).cpu = s.cpu := rfl
@[simp] theorem closeOut_host (s : State) : (closeOut s).host = s.host := rfl
@[simp] theorem closeOut_failCode (s : State) : (closeOut s).failCode = s.failCode := rfl
@[simp] theorem closeOut_exitCode (s : State) : (closeOut s).exitCode = s.exitCode := rfl
@[simp] theorem closeOut_refused (s : State) : (closeOut s).refused = s.refused := rfl
@[simp] theorem closeOut_cfg (s : State) : (closeOut s).cfg = s.cfg := rfl
@[simp] theorem closeOut_cpuTxns (s : State) : (closeOut s).cpuTxns = s.cpuTxns := rfl
@[simp] theorem closeOut_hostTxns (s : State) : (closeOut s).hostTxns = s.hostTxns := rfl
@[simp] theorem closeOut_procTxns (s : State) : (closeOut s).procTxns = s.procTxns := rfl
@[simp] theorem closeOut_sched (s : State) : (closeOut s).sched = s.sched := rfl
@[simp] theorem closeOut_draws (s : State) : (closeOut s).draws = s.draws := rfl
@[simp] theorem closeOut_last (s : State) : (closeOut s).last = s.last := rfl

/-! ### closeIn -/

@[simp] theorem closeIn_mem (s : State) : (closeIn s).mem = s.mem := rfl
@[simp] theorem closeIn_io (s : State) : (closeIn s).io = s.io := rfl
@[simp] theorem closeIn_outq (s : State) : (closeIn s).outq = s.outq := rfl
@[simp] theorem closeIn_inq (s : State) : (closeIn s).inq = s.inq := rfl
@[simp] theorem closeIn_outqConsOpen (s : State) : (closeIn s).outqConsOpen = s.outqConsOpen := rfl
@[simp] theorem closeIn_inqConsOpen (s : State) : (closeIn s).inqConsOpen = false := rfl
@[simp] theorem closeIn_phase (s : State) : (closeIn s).phase = s.phase := rfl
@[simp] theorem closeIn_cpu (s : State) : (closeIn s).cpu = s.cpu := rfl
@[simp] theorem closeIn_host (s : State) : (closeIn s).host = s.host := rfl
@[simp] theorem closeIn_failCode (s : State) : (closeIn s).failCode = s.failCode := rfl
@[simp] theorem closeIn_exitCode (s : State) : (closeIn s).exitCode = s.exitCode := rfl
@[simp] theorem closeIn_refused (s : State) : (closeIn s).refused = s.refused := rfl
@[simp] theorem closeIn_cfg (s : State) : (closeIn s).cfg = s.cfg := rfl
@[simp] theorem closeIn_cpuTxns (s : State) : (closeIn s).cpuTxns = s.cpuTxns := rfl
@[simp] theorem closeIn_hostTxns (s : State) : (closeIn s).hostTxns = s.hostTxns := rfl
@[simp] theorem closeIn_procTxns (s : State) : (closeIn s).procTxns = s.procTxns := rfl
@[simp] theorem closeIn_sched (s : State) : (closeIn s).sched = s.sched := rfl
@[simp] theorem closeIn_draws (s : State) : (closeIn s).draws = s.draws := rfl
@[simp] theorem closeIn_last (s : State) : (closeIn s).last = s.last := rfl

/-! ### loadImage -/

@[simp] theorem loadImage_mem (img : List Byte) (s : State) : (loadImage img s).mem = Memory.setAll s.mem 0 img := rfl
@[simp] theorem loadImage_io (img : List Byte) (s : State) : (loadImage img s).io = s.io := rfl
@[simp] theorem loadImage_outq (img : List Byte) (s : State) : (loadImage img s).outq = s.outq := rfl
@[simp] theorem loadImage_inq (img : List Byte) (s : State) : (loadImage img s).inq = s.inq := rfl
@[simp] theorem loadImage_outqConsOpen (img : List Byte) (s : State) : (loadImage img s).outqConsOpen = s.outqConsOpen := rfl
@[simp] theorem loadImage_inqConsOpen (img : List Byte) (s : State) : (loadImage img s).inqConsOpen = s.inqConsOpen := rfl
@[simp] theorem loadImage_phase (img : List Byte) (s : State) : (loadImage img s).phase = .loaded := rfl
@[simp] theorem loadImage_cpu (img : List Byte) (s : State) : (loadImage img s).cpu = s.cpu := rfl
@[simp] theorem loadImage_host (img : List Byte) (s : State) : (loadImage img s).host = s.host := rfl
@[simp] theorem loadImage_failCode (img : List Byte) (s : State) : (loadImage img s).failCode = s.failCode := rfl
@[simp] theorem loadImage_exitCode (img : List Byte) (s : State) : (loadImage img s).exitCode = s.exitCode := rfl
@[simp] theorem loadImage_refused (img : List Byte) (s : State) : (loadImage img s).refused = s.refused := rfl
@[simp] theorem loadImage_cfg (img : List Byte) (s : State) : (loadImage img s).cfg = s.cfg := rfl
@[simp] theorem loadImage_cpuTxns (img : List Byte) (s : State) : (loadImage img s).cpuTxns = s.cpuTxns := rfl
@[simp] theorem loadImage_hostTxns (img : List Byte) (s : State) : (loadImage img s).hostTxns = s.hostTxns := rfl
@[simp] theorem loadImage_procTxns (img : List Byte) (s : State) : (loadImage img s).procTxns = s.procTxns := rfl
@[simp] theorem loadImage_sched (img : List Byte) (s : State) : (loadImage img s).sched = s.sched := rfl
@[simp] theorem loadImage_draws (img : List Byte) (s : State) : (loadImage img s).draws = s.draws := rfl
@[simp] theorem loadImage_last (img : List Byte) (s : State) : (loadImage img s).last = s.last := rfl

/-! ### startDomains -/

@[simp] theorem startDomains_mem (s : State) : (startDomains s).mem = s.mem := rfl
@[simp] theorem startDomains_io (s : State) : (startDomains s).io = s.io := rfl
@[simp] theorem startDomains_outq (s : State) : (startDomains s).outq = s.outq := rfl
@[simp] theorem startDomains_inq (s : State) : (startDomains s).inq = s.inq := rfl
@[simp] theorem startDomains_outqConsOpen (s : State) : (startDomains s).outqConsOpen = s.outqConsOpen := rfl
@[simp] theorem startDomains_inqConsOpen (s : State) : (startDomains s).inqConsOpen = s.inqConsOpen := rfl
@[simp] theorem startDomains_phase (s : State) : (startDomains s).phase = .running := rfl
@[simp] theorem startDomains_cpu (s : State) : (startDomains s).cpu = .active := rfl
@[simp] theorem startDomains_host (s : State) : (startDomains s).host = .active := rfl
@[simp] theorem startDomains_failCode (s : State) : (startDomains s).failCode = s.failCode := rfl
@[simp] theorem startDomains_exitCode (s : State) : (startDomains s).exitCode = s.exitCode := rfl
@[simp] theorem startDomains_refused (s : State) : (startDomains s).refused = s.refused := rfl
@[simp] theorem startDomains_cfg (s : State) : (startDomains s).cfg = s.cfg := rfl
@[simp] theorem startDomains_cpuTxns (s : State) : (startDomains s).cpuTxns = s.cpuTxns := rfl
@[simp] theorem startDomains_hostTxns (s : State) : (startDomains s).hostTxns = s.hostTxns := rfl
@[simp] theorem startDomains_procTxns (s : State) : (startDomains s).procTxns = s.procTxns := rfl
@[simp] theorem startDomains_sched (s : State) : (startDomains s).sched = s.sched := rfl
@[simp] theorem startDomains_draws (s : State) : (startDomains s).draws = s.draws := rfl
@[simp] theorem startDomains_last (s : State) : (startDomains s).last = s.last := rfl

/-! ### quitHost -/

@[simp] theorem quitHost_mem (s : State) : (quitHost s).mem = s.mem := rfl
@[simp] theorem quitHost_io (s : State) : (quitHost s).io = s.io := rfl
@[simp] theorem quitHost_outq (s : State) : (quitHost s).outq = s.outq := rfl
@[simp] theorem quitHost_inq (s : State) : (quitHost s).inq = s.inq := rfl
@[simp] theorem quitHost_outqConsOpen (s : State) : (quitHost s).outqConsOpen = false := rfl
@[simp] theorem quitHost_inqConsOpen (s : State) : (quitHost s).inqConsOpen = s.inqConsOpen := rfl
@[simp] theorem quitHost_phase (s : State) : (quitHost s).phase = .exiting := rfl
@[simp] theorem quitHost_cpu (s : State) : (quitHost s).cpu = s.cpu := rfl
@[simp] theorem quitHost_host (s : State) : (quitHost s).host = .done := rfl
@[simp] theorem quitHost_failCode (s : State) : (quitHost s).failCode = s.failCode := rfl
@[simp] theorem quitHost_exitCode (s : State) : (quitHost s).exitCode = s.exitCode := rfl
@[simp] theorem quitHost_refused (s : State) : (quitHost s).refused = s.refused := rfl
@[simp] theorem quitHost_cfg (s : State) : (quitHost s).cfg = s.cfg := rfl
@[simp] theorem quitHost_cpuTxns (s : State) : (quitHost s).cpuTxns = s.cpuTxns := rfl
@[simp] theorem quitHost_hostTxns (s : State) : (quitHost s).hostTxns = s.hostTxns := rfl
@[simp] theorem quitHost_procTxns (s : State) : (quitHost s).procTxns = s.procTxns := rfl
@[simp] theorem quitHost_sched (s : State) : (quitHost s).sched = s.sched := rfl
@[simp] theorem quitHost_draws (s : State) : (quitHost s).draws = s.draws := rfl
@[simp] theorem quitHost_last (s : State) : (quitHost s).last = s.last := rfl

/-! ### endProcess -/

@[simp] theorem endProcess_mem (s : State) : (endProcess s).mem = s.mem := rfl
@[simp] theorem endProcess_io (s : State) : (endProcess s).io = s.io := rfl
@[simp] theorem endProcess_outq (s : State) : (endProcess s).outq = s.outq := rfl
@[simp] theorem endProcess_inq (s : State) : (endProcess s).inq = s.inq := rfl
@[simp] theorem endProcess_outqConsOpen (s : State) : (endProcess s).outqConsOpen = s.outqConsOpen := rfl
@[simp] theorem endProcess_inqConsOpen (s : State) : (endProcess s).inqConsOpen = s.inqConsOpen := rfl
@[simp] theorem endProcess_phase (s : State) : (endProcess s).phase = .exited := rfl
@[simp] theorem endProcess_cpu (s : State) : (endProcess s).cpu = s.cpu := rfl
@[simp] theorem endProcess_host (s : State) : (endProcess s).host = s.host := rfl
@[simp] theorem endProcess_failCode (s : State) : (endProcess s).failCode = s.failCode := rfl
@[simp] theorem endProcess_exitCode (s : State) : (endProcess s).exitCode = some exitOk := rfl
@[simp] theorem endProcess_refused (s : State) : (endProcess s).refused = s.refused := rfl
@[simp] theorem endProcess_cfg (s : State) : (endProcess s).cfg = s.cfg := rfl
@[simp] theorem endProcess_cpuTxns (s : State) : (endProcess s).cpuTxns = s.cpuTxns := rfl
@[simp] theorem endProcess_hostTxns (s : State) : (endProcess s).hostTxns = s.hostTxns := rfl
@[simp] theorem endProcess_procTxns (s : State) : (endProcess s).procTxns = s.procTxns := rfl
@[simp] theorem endProcess_sched (s : State) : (endProcess s).sched = s.sched := rfl
@[simp] theorem endProcess_draws (s : State) : (endProcess s).draws = s.draws := rfl
@[simp] theorem endProcess_last (s : State) : (endProcess s).last = s.last := rfl

/-! ### setTxns -/

@[simp] theorem setTxns_mem (a : Agent) (rs : List Request) (s : State) : (State.setTxns a rs s).mem = s.mem := rfl
@[simp] theorem setTxns_io (a : Agent) (rs : List Request) (s : State) : (State.setTxns a rs s).io = s.io := rfl
@[simp] theorem setTxns_outq (a : Agent) (rs : List Request) (s : State) : (State.setTxns a rs s).outq = s.outq := rfl
@[simp] theorem setTxns_inq (a : Agent) (rs : List Request) (s : State) : (State.setTxns a rs s).inq = s.inq := rfl
@[simp] theorem setTxns_outqConsOpen (a : Agent) (rs : List Request) (s : State) : (State.setTxns a rs s).outqConsOpen = s.outqConsOpen := rfl
@[simp] theorem setTxns_inqConsOpen (a : Agent) (rs : List Request) (s : State) : (State.setTxns a rs s).inqConsOpen = s.inqConsOpen := rfl
@[simp] theorem setTxns_phase (a : Agent) (rs : List Request) (s : State) : (State.setTxns a rs s).phase = s.phase := rfl
@[simp] theorem setTxns_cpu (a : Agent) (rs : List Request) (s : State) : (State.setTxns a rs s).cpu = s.cpu := rfl
@[simp] theorem setTxns_host (a : Agent) (rs : List Request) (s : State) : (State.setTxns a rs s).host = s.host := rfl
@[simp] theorem setTxns_failCode (a : Agent) (rs : List Request) (s : State) : (State.setTxns a rs s).failCode = s.failCode := rfl
@[simp] theorem setTxns_exitCode (a : Agent) (rs : List Request) (s : State) : (State.setTxns a rs s).exitCode = s.exitCode := rfl
@[simp] theorem setTxns_refused (a : Agent) (rs : List Request) (s : State) : (State.setTxns a rs s).refused = s.refused := rfl
@[simp] theorem setTxns_cfg (a : Agent) (rs : List Request) (s : State) : (State.setTxns a rs s).cfg = s.cfg := rfl
@[simp] theorem setTxns_cpuTxns (a : Agent) (rs : List Request) (s : State) : (State.setTxns a rs s).cpuTxns = if a = .cpu then rs else s.cpuTxns := rfl
@[simp] theorem setTxns_hostTxns (a : Agent) (rs : List Request) (s : State) : (State.setTxns a rs s).hostTxns = if a = .host then rs else s.hostTxns := rfl
@[simp] theorem setTxns_procTxns (a : Agent) (rs : List Request) (s : State) : (State.setTxns a rs s).procTxns = if a = .proc then rs else s.procTxns := rfl
@[simp] theorem setTxns_sched (a : Agent) (rs : List Request) (s : State) : (State.setTxns a rs s).sched = s.sched := rfl
@[simp] theorem setTxns_draws (a : Agent) (rs : List Request) (s : State) : (State.setTxns a rs s).draws = s.draws := rfl
@[simp] theorem setTxns_last (a : Agent) (rs : List Request) (s : State) : (State.setTxns a rs s).last = s.last := rfl

/-! ### takeTurn -/

@[simp] theorem takeTurn_mem (s : State) : (State.takeTurn s).mem = s.mem := rfl
@[simp] theorem takeTurn_io (s : State) : (State.takeTurn s).io = s.io := rfl
@[simp] theorem takeTurn_outq (s : State) : (State.takeTurn s).outq = s.outq := rfl
@[simp] theorem takeTurn_inq (s : State) : (State.takeTurn s).inq = s.inq := rfl
@[simp] theorem takeTurn_outqConsOpen (s : State) : (State.takeTurn s).outqConsOpen = s.outqConsOpen := rfl
@[simp] theorem takeTurn_inqConsOpen (s : State) : (State.takeTurn s).inqConsOpen = s.inqConsOpen := rfl
@[simp] theorem takeTurn_phase (s : State) : (State.takeTurn s).phase = s.phase := rfl
@[simp] theorem takeTurn_cpu (s : State) : (State.takeTurn s).cpu = s.cpu := rfl
@[simp] theorem takeTurn_host (s : State) : (State.takeTurn s).host = s.host := rfl
@[simp] theorem takeTurn_failCode (s : State) : (State.takeTurn s).failCode = s.failCode := rfl
@[simp] theorem takeTurn_exitCode (s : State) : (State.takeTurn s).exitCode = s.exitCode := rfl
@[simp] theorem takeTurn_refused (s : State) : (State.takeTurn s).refused = s.refused := rfl
@[simp] theorem takeTurn_cfg (s : State) : (State.takeTurn s).cfg = s.cfg := rfl
@[simp] theorem takeTurn_cpuTxns (s : State) : (State.takeTurn s).cpuTxns = s.cpuTxns := rfl
@[simp] theorem takeTurn_hostTxns (s : State) : (State.takeTurn s).hostTxns = s.hostTxns := rfl
@[simp] theorem takeTurn_procTxns (s : State) : (State.takeTurn s).procTxns = s.procTxns := rfl
@[simp] theorem takeTurn_sched (s : State) : (State.takeTurn s).sched = s.sched.tail := rfl
@[simp] theorem takeTurn_draws (s : State) : (State.takeTurn s).draws = if s.sched.isEmpty then s.draws + 1 else s.draws := rfl
@[simp] theorem takeTurn_last (s : State) : (State.takeTurn s).last = s.last := rfl

/-! ### issue -/

@[simp] theorem issue_mem (a : Agent) (r : Request) (s : State) : (State.issue a r s).mem = s.mem := rfl
@[simp] theorem issue_io (a : Agent) (r : Request) (s : State) : (State.issue a r s).io = s.io := rfl
@[simp] theorem issue_outq (a : Agent) (r : Request) (s : State) : (State.issue a r s).outq = s.outq := rfl
@[simp] theorem issue_inq (a : Agent) (r : Request) (s : State) : (State.issue a r s).inq = s.inq := rfl
@[simp] theorem issue_outqConsOpen (a : Agent) (r : Request) (s : State) : (State.issue a r s).outqConsOpen = s.outqConsOpen := rfl
@[simp] theorem issue_inqConsOpen (a : Agent) (r : Request) (s : State) : (State.issue a r s).inqConsOpen = s.inqConsOpen := rfl
@[simp] theorem issue_phase (a : Agent) (r : Request) (s : State) : (State.issue a r s).phase = s.phase := rfl
@[simp] theorem issue_cpu (a : Agent) (r : Request) (s : State) : (State.issue a r s).cpu = s.cpu := rfl
@[simp] theorem issue_host (a : Agent) (r : Request) (s : State) : (State.issue a r s).host = s.host := rfl
@[simp] theorem issue_failCode (a : Agent) (r : Request) (s : State) : (State.issue a r s).failCode = s.failCode := rfl
@[simp] theorem issue_exitCode (a : Agent) (r : Request) (s : State) : (State.issue a r s).exitCode = s.exitCode := rfl
@[simp] theorem issue_refused (a : Agent) (r : Request) (s : State) : (State.issue a r s).refused = s.refused := rfl
@[simp] theorem issue_cfg (a : Agent) (r : Request) (s : State) : (State.issue a r s).cfg = s.cfg := rfl
@[simp] theorem issue_cpuTxns (a : Agent) (r : Request) (s : State) : (State.issue a r s).cpuTxns = if a = .cpu then s.txns a ++ [r] else s.cpuTxns := rfl
@[simp] theorem issue_hostTxns (a : Agent) (r : Request) (s : State) : (State.issue a r s).hostTxns = if a = .host then s.txns a ++ [r] else s.hostTxns := rfl
@[simp] theorem issue_procTxns (a : Agent) (r : Request) (s : State) : (State.issue a r s).procTxns = if a = .proc then s.txns a ++ [r] else s.procTxns := rfl
@[simp] theorem issue_sched (a : Agent) (r : Request) (s : State) : (State.issue a r s).sched = s.sched := rfl
@[simp] theorem issue_draws (a : Agent) (r : Request) (s : State) : (State.issue a r s).draws = s.draws := rfl
@[simp] theorem issue_last (a : Agent) (r : Request) (s : State) : (State.issue a r s).last = s.last := rfl

/-! ### schedule -/

@[simp] theorem schedule_mem (a : Agent) (s : State) : (State.schedule a s).mem = s.mem := rfl
@[simp] theorem schedule_io (a : Agent) (s : State) : (State.schedule a s).io = s.io := rfl
@[simp] theorem schedule_outq (a : Agent) (s : State) : (State.schedule a s).outq = s.outq := rfl
@[simp] theorem schedule_inq (a : Agent) (s : State) : (State.schedule a s).inq = s.inq := rfl
@[simp] theorem schedule_outqConsOpen (a : Agent) (s : State) : (State.schedule a s).outqConsOpen = s.outqConsOpen := rfl
@[simp] theorem schedule_inqConsOpen (a : Agent) (s : State) : (State.schedule a s).inqConsOpen = s.inqConsOpen := rfl
@[simp] theorem schedule_phase (a : Agent) (s : State) : (State.schedule a s).phase = s.phase := rfl
@[simp] theorem schedule_cpu (a : Agent) (s : State) : (State.schedule a s).cpu = s.cpu := rfl
@[simp] theorem schedule_host (a : Agent) (s : State) : (State.schedule a s).host = s.host := rfl
@[simp] theorem schedule_failCode (a : Agent) (s : State) : (State.schedule a s).failCode = s.failCode := rfl
@[simp] theorem schedule_exitCode (a : Agent) (s : State) : (State.schedule a s).exitCode = s.exitCode := rfl
@[simp] theorem schedule_refused (a : Agent) (s : State) : (State.schedule a s).refused = s.refused := rfl
@[simp] theorem schedule_cfg (a : Agent) (s : State) : (State.schedule a s).cfg = s.cfg := rfl
@[simp] theorem schedule_cpuTxns (a : Agent) (s : State) : (State.schedule a s).cpuTxns = s.cpuTxns := rfl
@[simp] theorem schedule_hostTxns (a : Agent) (s : State) : (State.schedule a s).hostTxns = s.hostTxns := rfl
@[simp] theorem schedule_procTxns (a : Agent) (s : State) : (State.schedule a s).procTxns = s.procTxns := rfl
@[simp] theorem schedule_sched (a : Agent) (s : State) : (State.schedule a s).sched = s.sched ++ [a] := rfl
@[simp] theorem schedule_draws (a : Agent) (s : State) : (State.schedule a s).draws = s.draws := rfl
@[simp] theorem schedule_last (a : Agent) (s : State) : (State.schedule a s).last = s.last := rfl

end Sys2Proof.Machine
end

