-- ==== Sys2Proof/Laws/Memory.lean ====
section
/-!
SUPPORT. The laws of the byte store: read after write, other cells alone, and the canonical form and the bound kept by
every operation.
-/
namespace Sys2Proof.Machine

@[simp] theorem Memory.get_nil (a : Nat) : Memory.get [] a = 0 := rfl

theorem Memory.get_cell (k : Nat) (b : Byte) (cells : Memory) (a : Nat) :
    Memory.get ((k, b) :: cells) a = if k = a then b else Memory.get cells a := rfl

/-- In a canonical store nothing is listed at or below a bound of all its addresses. -/
theorem Memory.get_of_all_gt (cells : Memory) (k a : Nat) (h : cells.all (fun c => decide (k < c.1)) = true)
    (ha : a ≤ k) : Memory.get cells a = 0 := by
  induction cells with
  | nil => rfl
  | cons c cells ih =>
    obtain ⟨j, b⟩ := c
    simp only [List.all_cons, Bool.and_eq_true, decide_eq_true_eq] at h
    rw [Memory.get_cell, if_neg (by omega), ih h.2]

theorem Memory.all_gt_mono {cells : Memory} {k j : Nat} (hjk : j ≤ k)
    (h : cells.all (fun c => decide (k < c.1)) = true) : cells.all (fun c => decide (j < c.1)) = true := by
  simp only [List.all_eq_true, decide_eq_true_eq] at h ⊢
  intro c hc
  have := h c hc
  omega

theorem Memory.wf_cell (k : Nat) (b : Byte) (cells : Memory) :
    Memory.wf ((k, b) :: cells) = true ↔
      b ≠ 0 ∧ cells.all (fun c => decide (k < c.1)) = true ∧ Memory.wf cells = true := by
  simp [Memory.wf, Memory.unlisted, and_assoc]

theorem Memory.get_cons (a : Nat) (v : Byte) (cells : Memory) (h : Memory.get cells a = 0) (x : Nat) :
    Memory.get (Memory.cons a v cells) x = if x = a then v else Memory.get cells x := by
  unfold Memory.cons Memory.unlisted
  by_cases hv : v = 0x00
  · rw [if_pos hv]
    by_cases hx : x = a
    · rw [if_pos hx, hx, h, hv]
    · rw [if_neg hx]
  · rw [if_neg hv, Memory.get_cell]
    by_cases hx : x = a
    · rw [if_pos hx, if_pos hx.symm]
    · rw [if_neg hx, if_neg (Ne.symm hx)]

/-- Read after write, and every other address alone. -/
theorem Memory.get_set (cells : Memory) (a : Nat) (v : Byte) (h : Memory.wf cells = true) (x : Nat) :
    Memory.get (Memory.set cells a v) x = if x = a then v else Memory.get cells x := by
  induction cells with
  | nil => exact Memory.get_cons a v [] rfl x
  | cons c cells ih =>
    obtain ⟨k, b⟩ := c
    rw [Memory.wf_cell] at h
    unfold Memory.set
    by_cases h1 : a < k
    · rw [if_pos h1]
      refine Memory.get_cons a v _ ?_ x
      rw [Memory.get_cell, if_neg (by omega)]
      exact Memory.get_of_all_gt _ _ _ h.2.1 (by omega)
    · rw [if_neg h1]
      by_cases h2 : a = k
      · rw [if_pos h2, Memory.get_cons a v cells (Memory.get_of_all_gt _ _ _ h.2.1 (by omega)), Memory.get_cell]
        by_cases hx : x = a
        · rw [if_pos hx, if_pos hx]
        · rw [if_neg hx, if_neg hx, if_neg (by omega)]
      · rw [if_neg h2, Memory.get_cell, Memory.get_cell, ih h.2.2]
        by_cases hk : k = x
        · rw [if_pos hk, if_neg (by omega), if_pos hk]
        · rw [if_neg hk, if_neg hk]

theorem Memory.all_cons {P : Host.Cell → Bool} (a : Nat) (v : Byte) (cells : Memory) (ha : P (a, v) = true)
    (h : cells.all P = true) : (Memory.cons a v cells).all P = true := by
  unfold Memory.cons
  split
  · exact h
  · simp [ha, h]

/-- A property of all cells survives a write whose cell has it. -/
theorem Memory.all_set {P : Host.Cell → Bool} (cells : Memory) (a : Nat) (v : Byte) (ha : P (a, v) = true)
    (h : cells.all P = true) : (Memory.set cells a v).all P = true := by
  induction cells with
  | nil => exact Memory.all_cons a v [] ha rfl
  | cons c cells ih =>
    obtain ⟨k, b⟩ := c
    have hc := h
    simp only [List.all_cons, Bool.and_eq_true] at hc
    unfold Memory.set
    split
    · exact Memory.all_cons a v _ ha h
    · split
      · exact Memory.all_cons a v _ ha hc.2
      · simp only [List.all_cons, Bool.and_eq_true]
        exact ⟨hc.1, ih hc.2⟩

theorem Memory.wf_cons (a : Nat) (v : Byte) (cells : Memory) (hgt : cells.all (fun c => decide (a < c.1)) = true)
    (h : Memory.wf cells = true) : Memory.wf (Memory.cons a v cells) = true := by
  unfold Memory.cons Memory.unlisted
  split
  · exact h
  · rename_i hv
    exact (Memory.wf_cell _ _ _).2 ⟨hv, hgt, h⟩

/-- A write keeps the canonical form. -/
theorem Memory.wf_set (cells : Memory) (a : Nat) (v : Byte) (h : Memory.wf cells = true) :
    Memory.wf (Memory.set cells a v) = true := by
  induction cells with
  | nil => exact Memory.wf_cons a v [] rfl rfl
  | cons c cells ih =>
    obtain ⟨k, b⟩ := c
    have hc := (Memory.wf_cell _ _ _).1 h
    unfold Memory.set
    by_cases h1 : a < k
    · rw [if_pos h1]
      refine Memory.wf_cons a v _ ?_ h
      simp only [List.all_cons, Bool.and_eq_true, decide_eq_true_eq]
      exact ⟨h1, Memory.all_gt_mono (by omega) hc.2.1⟩
    · rw [if_neg h1]
      by_cases h2 : a = k
      · rw [if_pos h2]
        exact Memory.wf_cons a v _ (Memory.all_gt_mono (by omega) hc.2.1) hc.2.2
      · rw [if_neg h2]
        refine (Memory.wf_cell _ _ _).2 ⟨hc.1, Memory.all_set cells a v ?_ hc.2.1, ih hc.2.2⟩
        simp only [decide_eq_true_eq]
        omega

/-- A write below the bound keeps the bound. -/
theorem Memory.below_set (bound : Nat) (cells : Memory) (a : Nat) (v : Byte) (ha : a < bound)
    (h : Memory.below bound cells = true) : Memory.below bound (Memory.set cells a v) = true :=
  Memory.all_set cells a v (by simpa using ha) h

/-- The image copy keeps the canonical form. -/
theorem Memory.wf_setAll (vs : List Byte) (cells : Memory) (a : Nat) (h : Memory.wf cells = true) :
    Memory.wf (Memory.setAll cells a vs) = true := by
  induction vs generalizing a with
  | nil => exact h
  | cons v vs ih => exact Memory.wf_set _ _ _ (ih (a + 1))

/-- The image copy keeps a bound it fits under. -/
theorem Memory.below_setAll (bound : Nat) (vs : List Byte) (cells : Memory) (a : Nat) (ha : a + vs.length ≤ bound)
    (h : Memory.below bound cells = true) : Memory.below bound (Memory.setAll cells a vs) = true := by
  induction vs generalizing a with
  | nil => exact h
  | cons v vs ih =>
    simp only [List.length_cons] at ha
    exact Memory.below_set _ _ _ _ (by omega) (ih (a + 1) (by omega))

/-- What the image copy leaves at each address: byte `x - a` of the image inside it, the old byte elsewhere. -/
theorem Memory.get_setAll (vs : List Byte) (cells : Memory) (a : Nat) (h : Memory.wf cells = true) (x : Nat) :
    Memory.get (Memory.setAll cells a vs) x =
      if a ≤ x ∧ x < a + vs.length then vs.getD (x - a) 0 else Memory.get cells x := by
  induction vs generalizing a with
  | nil =>
    simp only [Memory.setAll, List.length_nil]
    rw [if_neg (by omega)]
  | cons v vs ih =>
    simp only [Memory.setAll, List.length_cons]
    rw [Memory.get_set _ _ _ (Memory.wf_setAll vs cells (a + 1) h), ih (a + 1)]
    by_cases hx : x = a
    · subst hx
      rw [if_pos rfl, if_pos (by omega)]
      simp
    · rw [if_neg hx]
      by_cases hin : a + 1 ≤ x ∧ x < a + 1 + vs.length
      · rw [if_pos hin, if_pos (by omega)]
        obtain ⟨j, hj⟩ : ∃ j, x - a = j + 1 := ⟨x - a - 1, by omega⟩
        rw [hj, List.getD_cons_succ]
        congr 1
        omega
      · rw [if_neg hin, if_neg (by omega)]

end Sys2Proof.Machine
end

