-- ==== Sys2Proof/Laws/Decode.lean ====
section
/-!
SUPPORT. The fields of a packed word, and that a word is its fields packed.
-/
namespace Sys2Proof

theorem packWord_toNat (op z : BitVec 4) (a : BitVec 24) (d : BitVec 8) :
    (packWord op z a d).toNat = op.toNat * 2 ^ 36 + z.toNat * 2 ^ 32 + a.toNat * 2 ^ 8 + d.toNat := by
  have h1 := z.isLt
  have h2 := a.isLt
  have h3 := d.isLt
  simp only [packWord, BitVec.toNat_append]
  rw [← Nat.shiftLeft_add_eq_or_of_lt h1, ← Nat.shiftLeft_add_eq_or_of_lt h2, ← Nat.shiftLeft_add_eq_or_of_lt h3]
  simp only [Nat.shiftLeft_eq]
  omega

@[simp] theorem opField_packWord (op z : BitVec 4) (a : BitVec 24) (d : BitVec 8) : opField (packWord op z a d) = op := by
  have h0 := op.isLt
  have h1 := z.isLt
  have h2 := a.isLt
  have h3 := d.isLt
  apply BitVec.eq_of_toNat_eq
  rw [opField, BitVec.extractLsb'_toNat, packWord_toNat, Nat.shiftRight_eq_div_pow]
  omega

@[simp] theorem zField_packWord (op z : BitVec 4) (a : BitVec 24) (d : BitVec 8) : zField (packWord op z a d) = z := by
  have h0 := op.isLt
  have h1 := z.isLt
  have h2 := a.isLt
  have h3 := d.isLt
  apply BitVec.eq_of_toNat_eq
  rw [zField, BitVec.extractLsb'_toNat, packWord_toNat, Nat.shiftRight_eq_div_pow]
  omega

@[simp] theorem aField_packWord (op z : BitVec 4) (a : BitVec 24) (d : BitVec 8) : aField (packWord op z a d) = a := by
  have h0 := op.isLt
  have h1 := z.isLt
  have h2 := a.isLt
  have h3 := d.isLt
  apply BitVec.eq_of_toNat_eq
  rw [aField, BitVec.extractLsb'_toNat, packWord_toNat, Nat.shiftRight_eq_div_pow]
  omega

@[simp] theorem dField_packWord (op z : BitVec 4) (a : BitVec 24) (d : BitVec 8) : dField (packWord op z a d) = d := by
  have h0 := op.isLt
  have h1 := z.isLt
  have h2 := a.isLt
  have h3 := d.isLt
  apply BitVec.eq_of_toNat_eq
  rw [dField, BitVec.extractLsb'_toNat, packWord_toNat, Nat.shiftRight_eq_div_pow]
  omega

/-- A word is its four fields (R52). -/
theorem packWord_fields (w : TxnWord) : packWord (opField w) (zField w) (aField w) (dField w) = w := by
  apply BitVec.eq_of_toNat_eq
  have h := w.isLt
  rw [packWord_toNat, opField, zField, aField, dField]
  simp only [BitVec.extractLsb'_toNat, Nat.shiftRight_eq_div_pow]
  omega

/-- Packed words are equal when their fields are. -/
theorem packWord_inj {op z o2 z2 : BitVec 4} {a a2 : BitVec 24} {d d2 : BitVec 8} :
    packWord op z a d = packWord o2 z2 a2 d2 ↔ op = o2 ∧ z = z2 ∧ a = a2 ∧ d = d2 := by
  constructor
  · intro h
    exact ⟨by simpa using congrArg opField h, by simpa using congrArg zField h, by simpa using congrArg aField h,
      by simpa using congrArg dField h⟩
  · rintro ⟨rfl, rfl, rfl, rfl⟩
    rfl

/-- Masking acts field by field. -/
theorem packWord_and (op z o2 z2 : BitVec 4) (a a2 : BitVec 24) (d d2 : BitVec 8) :
    packWord op z a d &&& packWord o2 z2 a2 d2 = packWord (op &&& o2) (z &&& z2) (a &&& a2) (d &&& d2) := by
  apply BitVec.eq_of_getLsbD_eq
  intro j hj
  simp only [packWord, BitVec.getLsbD_and, BitVec.getLsbD_append]
  split <;> [skip; split <;> [skip; split]] <;> rfl

/-- A port is the low part of its zero-extended address field, and the high part is zero. -/
@[simp] theorem aPort_setWidth (p : Port) : aPort (p.setWidth 24) = p := by
  have h := p.isLt
  apply BitVec.eq_of_toNat_eq
  simp only [aPort, BitVec.extractLsb'_toNat, BitVec.toNat_setWidth, Nat.shiftRight_eq_div_pow]
  omega

@[simp] theorem aHigh_setWidth (p : Port) : aHigh (p.setWidth 24) = 0 := by
  have h := p.isLt
  apply BitVec.eq_of_toNat_eq
  simp only [aHigh, BitVec.extractLsb'_toNat, BitVec.toNat_setWidth, Nat.shiftRight_eq_div_pow, BitVec.ofNat_eq_ofNat, BitVec.toNat_ofNat]
  omega

/-- An address field whose high part is zero is its port, zero-extended. -/
theorem setWidth_aPort (a : BitVec 24) (h : aHigh a = 0) : (aPort a).setWidth 24 = a := by
  have ha := a.isLt
  have h' := congrArg BitVec.toNat h
  apply BitVec.eq_of_toNat_eq
  simp only [aHigh, BitVec.extractLsb'_toNat, Nat.shiftRight_eq_div_pow, BitVec.ofNat_eq_ofNat, BitVec.toNat_ofNat] at h'
  simp only [aPort, BitVec.extractLsb'_toNat, BitVec.toNat_setWidth, Nat.shiftRight_eq_div_pow]
  omega

/-- A data field whose high part is zero is the surface flag. -/
theorem surfaceFlag_of_dHigh (d : BitVec 8) (h : dHigh d = 0) : (if d.getLsbD 0 then (1 : BitVec 8) else 0) = d := by
  revert h
  revert d
  decide

/-! ### The decoder's two checks -/

@[simp] theorem unlessStray_ok (b : Bool) (i j : Instr) : unlessStray b i = .ok j ↔ b = false ∧ i = j := by
  cases b <;> simp [unlessStray]

@[simp] theorem unlessStray_error (b : Bool) (i : Instr) : (∃ e, unlessStray b i = .error e) ↔ b = true := by
  cases b <;> simp [unlessStray]

@[simp] theorem unlessTooWide_ok (aw : AddrWidth) (a : BitVec 24) (i j : Instr) :
    unlessTooWide aw a i = .ok j ↔ a.toNat < 2 ^ aw.bits ∧ i = j := by
  unfold unlessTooWide
  split <;> simp_all

@[simp] theorem unlessTooWide_error (aw : AddrWidth) (a : BitVec 24) (i : Instr) :
    (∃ e, unlessTooWide aw a i = .error e) ↔ 2 ^ aw.bits ≤ a.toNat := by
  unfold unlessTooWide
  split <;> simp_all

/-- A valid word is not of the reserved space, has a zero `Z`, and its fields decode. -/
theorem decode_ok {aw : AddrWidth} {r : Request} {i : Instr} (h : decode aw r = .ok i) :
    opField r.word ≠ 0xF ∧ zField r.word = 0 ∧
      decodeFields aw (opField r.word) (aField r.word) (dField r.word) r.img = .ok i := by
  unfold decode at h
  split at h
  · cases h
  · split at h
    · cases h
    · rename_i h1 h2
      exact ⟨h1, by simpa using h2, h⟩

/-- The sixteen values of `OP`. -/
theorem op_values (op : BitVec 4) :
    op = 0x0 ∨ op = 0x1 ∨ op = 0x2 ∨ op = 0x3 ∨ op = 0x4 ∨ op = 0x5 ∨ op = 0x6 ∨ op = 0x7 ∨ op = 0x8 ∨ op = 0x9 ∨
      op = 0xA ∨ op = 0xB ∨ op = 0xC ∨ op = 0xD ∨ op = 0xE ∨ op = 0xF := by
  revert op
  decide

end Sys2Proof
end

