-- ==== Sys2Proof/Laws/Ops.lean ====
section
/-!
SUPPORT. One lemma for each shared operation, saying everything it can do.
-/
namespace Sys2Proof.Machine

/-! ### Endings -/

@[simp] theorem raiseFault_cpu (f : BlockFault) (s : State) : raiseFault .cpu f s = stopCpu f s := rfl
@[simp] theorem raiseFault_host (f : BlockFault) (s : State) : raiseFault .host f s = stopHost f s := rfl
@[simp] theorem raiseFault_proc (f : BlockFault) (s : State) : raiseFault .proc f s = failStartup f s := rfl

@[simp] theorem whenEnabled_true (s t : State) : whenEnabled true s t = t := rfl
@[simp] theorem whenEnabled_false (s t : State) : whenEnabled false s t = hold s := rfl

theorem receive_closed (e : Bool) (s t : State) (h : terminal s = false) :
    receive false e s t = refuse .closedEndpoint s := by simp [receive, h]
@[simp] theorem receive_open (e : Bool) (s t : State) : receive true e s t = whenEnabled e s t := rfl

/-! ### Conditions -/

theorem terminal_iff (s : State) : terminal s = true ↔ s.phase = .exited ∨ s.phase = .failed := by
  simp [terminal]

/-- In a terminal phase nothing is enabled (R117, R120). -/
theorem enabled_terminal (i : Instr) (s : State) (h : terminal s = true) : enabled i s = false := by
  rw [terminal_iff] at h
  rcases h with h | h <;> cases i <;>
    simp [enabled, cpuEnabled, hostEnabled, closeEnabled, loadEnabled, startEnabled, quitEnabled, exitEnabled,
      inRunExit, h]

theorem inRunExit_iff (s : State) : inRunExit s = true ↔ s.phase = .running ∨ s.phase = .exiting := by
  simp [inRunExit]

theorem cpuEnabled_iff (s : State) :
    cpuEnabled s = true ↔ (s.phase = .running ∨ s.phase = .exiting) ∧ s.cpu = .active := by
  simp [cpuEnabled, inRunExit]

theorem hostEnabled_iff (s : State) :
    hostEnabled s = true ↔ (s.phase = .running ∨ s.phase = .exiting) ∧ s.host = .active := by
  simp [hostEnabled, inRunExit]

theorem closeEnabled_iff (s : State) :
    closeEnabled s = true ↔ (s.phase = .running ∨ s.phase = .exiting) ∧ (s.host = .active ∨ s.host = .done) := by
  simp [closeEnabled, inRunExit]

theorem quitEnabled_iff (s : State) : quitEnabled s = true ↔ s.phase = .running ∧ s.host = .active := by
  simp [quitEnabled]

theorem loadEnabled_iff (s : State) : loadEnabled s = true ↔ s.phase = .preLoad := by simp [loadEnabled]

theorem startEnabled_iff (s : State) : startEnabled s = true ↔ s.phase = .loaded := by simp [startEnabled]

theorem exitEnabled_iff (s : State) : exitEnabled s = true ↔ s.phase = .exiting := by simp [exitEnabled]

/-! ### Memory and ports -/

theorem memRead_inRange (s : State) (a : MemAddr) (h : a.toNat < s.cfg.total) :
    memRead s a = Memory.get s.mem a.toNat := by
  simp [memRead, inRange, h]

theorem memRead_outOfRange (s : State) (a : MemAddr) (h : s.cfg.total ≤ a.toNat) : memRead s a = s.cfg.openBus := by
  simp [memRead, inRange, Nat.not_lt.2 h]

theorem memWrite_outOfRange (s : State) (a : MemAddr) (v : Byte) (h : s.cfg.total ≤ a.toNat) : memWrite a v s = s := by
  simp [memWrite, inRange, Nat.not_lt.2 h]

/-- A memory read looks at the store and the parameters alone. -/
theorem memRead_congr {s t : State} (hm : t.mem = s.mem) (hc : t.cfg = s.cfg) (a : MemAddr) :
    memRead t a = memRead s a := by
  simp [memRead, hm, hc]

/-- What a memory write leaves at every address: the byte at its own, if that is in range. -/
theorem memRead_memWrite (s : State) (a x : MemAddr) (v : Byte) (h : Memory.wf s.mem = true) :
    memRead (memWrite a v s) x = if x = a ∧ a.toNat < s.cfg.total then v else memRead s x := by
  by_cases ha : a.toNat < s.cfg.total
  · by_cases hx : x.toNat < s.cfg.total
    · rw [memRead_inRange _ _ (by simpa using hx), memRead_inRange _ _ hx]
      simp only [memWrite_mem, inRange, ha, decide_true, if_true]
      rw [Memory.get_set _ _ _ h]
      simp [BitVec.toNat_inj]
    · have hne : x ≠ a := fun e => hx (e ▸ ha)
      rw [memRead_outOfRange _ _ (by simpa using hx), memRead_outOfRange _ _ (by simpa using hx)]
      simp [hne]
  · rw [memWrite_outOfRange _ _ _ (by omega)]
    simp [ha]

theorem portRead_synthetic (s : State) (p : Port) (v : Byte) (h : syntheticVal s.cfg p = some v) :
    portRead s p = v := by
  simp [portRead, h]

theorem portRead_stored (s : State) (p : Port) (h : isSynthetic s.cfg p = false) :
    portRead s p = Memory.get s.io p.toNat := by
  have h' : syntheticVal s.cfg p = none := by simpa [isSynthetic] using h
  simp [portRead, h']

/-- A port read looks at the register file and the parameters alone. -/
theorem portRead_congr {s t : State} (hi : t.io = s.io) (hc : t.cfg = s.cfg) (p : Port) :
    portRead t p = portRead s p := by
  simp [portRead, hi, hc]

/-- What a port store leaves at every port: the byte at its own, unless that is synthetic. -/
theorem portRead_portStore (s : State) (p q : Port) (v : Byte) (h : Memory.wf s.io = true) :
    portRead (portStore p v s) q = if q = p ∧ isSynthetic s.cfg p = false then v else portRead s q := by
  cases hq : syntheticVal s.cfg q with
  | some w =>
    rw [portRead_synthetic _ q w (by simpa using hq), portRead_synthetic _ q w hq, if_neg]
    rintro ⟨rfl, hp⟩
    simp [isSynthetic, hq] at hp
  | none =>
    have hs : isSynthetic s.cfg q = false := by simp [isSynthetic, hq]
    rw [portRead_stored _ q (by simpa using hs), portRead_stored _ q hs, portStore_io, Memory.get_set _ _ _ h]
    simp only [BitVec.toNat_inj]
    by_cases hp : q = p
    · subst hp
      simp [hs]
    · simp [hp]

/-! ### Queues -/

theorem sendOut_cases (v : Byte) (s : State) :
    (s.outqConsOpen = true ∧ sendOut v s = respond .none (enqOut v s)) ∨
    (s.outqConsOpen = false ∧ sendOut v s = stopCpu (.transportDisconnected .outbound) s) := by
  cases h : s.outqConsOpen <;> simp [sendOut, h]

theorem sendIn_cases (v : Byte) (s : State) :
    (s.inqConsOpen = true ∧ sendIn v s = respond .none (enqIn v s)) ∨
    (s.inqConsOpen = false ∧ sendIn v s = stopHost (.transportDisconnected .inbound) s) := by
  cases h : s.inqConsOpen <;> simp [sendIn, h]

theorem recvOut_cases (e s : State) :
    (s.outq = [] ∧ recvOut e s = e) ∨
    (∃ b q, s.outq = b :: q ∧ recvOut e s = respond (.byte b) (dropOut s)) := by
  unfold recvOut
  cases h : s.outq with
  | nil => exact .inl ⟨rfl, rfl⟩
  | cons b q => exact .inr ⟨b, q, rfl, rfl⟩

theorem recvIn_cases (e s : State) :
    (s.inq = [] ∧ recvIn e s = e) ∨
    (∃ b q, s.inq = b :: q ∧ recvIn e s = respond (.byte b) (dropIn s)) := by
  unfold recvIn
  cases h : s.inq with
  | nil => exact .inl ⟨rfl, rfl⟩
  | cons b q => exact .inr ⟨b, q, rfl, rfl⟩

/-- The three things a port write can do. -/
theorem portWrite_cases (p : Port) (v : Byte) (s : State) :
    (p ≠ s.cfg.txAddr ∧ portWrite p v s = respond .none (portStore p v s)) ∨
    (p = s.cfg.txAddr ∧ s.outqConsOpen = true ∧ portWrite p v s = respond .none (enqOut v (portStore p v s))) ∨
    (p = s.cfg.txAddr ∧ s.outqConsOpen = false ∧
      portWrite p v s = stopCpu (.transportDisconnected .outbound) (portStore p v s)) := by
  unfold portWrite
  by_cases hp : p = s.cfg.txAddr
  · rw [if_pos hp]
    rcases sendOut_cases v (portStore p v s) with ⟨ho, h⟩ | ⟨ho, h⟩
    · exact .inr (.inl ⟨hp, ho, h⟩)
    · exact .inr (.inr ⟨hp, ho, h⟩)
  · rw [if_neg hp]
    exact .inl ⟨hp, rfl⟩

/-- The three things a load can do. -/
theorem loadBody_cases (img : Image) (s : State) :
    (img = .unreadable ∧ loadBody img s = failStartup .imageUnreadable s) ∨
    (∃ bs, img = .bytes bs ∧ s.cfg.total < bs.length ∧ loadBody img s = failStartup (.imageTooLarge bs.length) s) ∨
    (∃ bs, img = .bytes bs ∧ bs.length ≤ s.cfg.total ∧ loadBody img s = respond .none (loadImage bs s)) := by
  cases img with
  | unreadable => exact .inl ⟨rfl, rfl⟩
  | bytes bs =>
    by_cases h : s.cfg.total < bs.length
    · exact .inr (.inl ⟨bs, rfl, h, by simp [loadBody, h]⟩)
    · exact .inr (.inr ⟨bs, rfl, by omega, by simp [loadBody, h]⟩)

end Sys2Proof.Machine
end

