-- ==== Sys2Proof/Laws/Step.lean ====
section
/-!
SUPPORT. What a transaction can do and what a step can do, each said once.
-/
namespace Sys2Proof.Machine

/-! ### Transactions -/

/-- The body of a transaction: its effect when it is enabled and its endpoint is open. -/
def body (i : Instr) (s : State) : State :=
  match i with
  | .memRd a     => respond (.byte (memRead s a)) s
  | .memWr a v   => respond .none (memWrite a v s)
  | .ioRd p      => respond (.byte (portRead s p)) s
  | .ioWr p v    => portWrite p v s
  | .outqTryrecv => recvOut (respond .empty s) s
  | .outqRecv    => recvOut (hold s) s
  | .inqSend v   => sendIn v s
  | .inqTryrecv  => recvIn (respond .empty s) s
  | .inqRecv     => recvIn (hold s) s
  | .outqClose   => respond .none (closeOut s)
  | .inqClose    => respond .none (closeIn s)
  | .load img    => loadBody img s
  | .start ok    => if ok then respond .none (startDomains s) else failStartup .hostSurface s
  | .quit        => respond .none (quitHost s)
  | .procExit    => respond .none (endProcess s)

/-- Every transaction: refused at a closed endpoint, held when not enabled, else its body. -/
theorem exec_eq (i : Instr) (s : State) :
    exec i s = .next (if passesEndpoint i s then (if enabled i s then body i s else hold s)
      else refuse .closedEndpoint s) := by
  cases i <;> rfl

/-- What a transaction can do, in three cases. -/
theorem exec_cases {i : Instr} {s t : State} (h : exec i s = .next t) :
    (passesEndpoint i s = false ∧ t = refuse .closedEndpoint s) ∨
    (passesEndpoint i s = true ∧ enabled i s = false ∧ t = hold s) ∨
    (passesEndpoint i s = true ∧ enabled i s = true ∧ t = body i s) := by
  rw [exec_eq] at h
  injection h with h
  subst h
  cases h1 : passesEndpoint i s
  · exact .inl ⟨rfl, by simp⟩
  · cases h2 : enabled i s
    · exact .inr (.inl ⟨rfl, rfl, by simp⟩)
    · exact .inr (.inr ⟨rfl, rfl, by simp⟩)

/-- Every transaction answers a next state. -/
theorem exec_total (i : Instr) (s : State) : ∃ t, exec i s = .next t := ⟨_, exec_eq i s⟩

/-- The inputs of the model are out of every transaction's reach. -/
def sameInputs (s t : State) : Prop :=
  t.cfg = s.cfg ∧ t.cpuTxns = s.cpuTxns ∧ t.hostTxns = s.hostTxns ∧ t.procTxns = s.procTxns ∧
    t.sched = s.sched ∧ t.draws = s.draws

theorem body_sameInputs (i : Instr) (s : State) : sameInputs s (body i s) := by
  cases i with
  | ioWr p v =>
    rcases portWrite_cases p v s with ⟨-, h⟩ | ⟨-, -, h⟩ | ⟨-, -, h⟩ <;> simp [body, h, sameInputs]
  | outqTryrecv =>
    rcases recvOut_cases (respond .empty s) s with ⟨-, h⟩ | ⟨b, q, -, h⟩ <;> simp [body, h, sameInputs]
  | outqRecv =>
    rcases recvOut_cases (hold s) s with ⟨-, h⟩ | ⟨b, q, -, h⟩ <;> simp [body, h, sameInputs]
  | inqTryrecv =>
    rcases recvIn_cases (respond .empty s) s with ⟨-, h⟩ | ⟨b, q, -, h⟩ <;> simp [body, h, sameInputs]
  | inqRecv =>
    rcases recvIn_cases (hold s) s with ⟨-, h⟩ | ⟨b, q, -, h⟩ <;> simp [body, h, sameInputs]
  | inqSend v =>
    rcases sendIn_cases v s with ⟨-, h⟩ | ⟨-, h⟩ <;> simp [body, h, sameInputs]
  | load img =>
    rcases loadBody_cases img s with ⟨-, h⟩ | ⟨bs, -, -, h⟩ | ⟨bs, -, -, h⟩ <;> simp [body, h, sameInputs]
  | start ok => cases ok <;> simp [body, sameInputs]
  | _ => simp [body, sameInputs]

theorem exec_sameInputs {i : Instr} {s t : State} (h : exec i s = .next t) : sameInputs s t := by
  rcases exec_cases h with ⟨-, rfl⟩ | ⟨-, -, rfl⟩ | ⟨-, -, rfl⟩
  · simp [sameInputs]
  · simp [sameInputs]
  · exact body_sameInputs i s

/-! ### Turns -/

@[simp] theorem txns_setTxns_same (a : Agent) (rs : List Request) (s : State) : (s.setTxns a rs).txns a = rs := by
  cases a <;> rfl

theorem txns_setTxns_other {a b : Agent} (h : b ≠ a) (rs : List Request) (s : State) :
    (s.setTxns a rs).txns b = s.txns b := by
  cases a <;> cases b <;> first | exact absurd rfl h | rfl

@[simp] theorem txns_takeTurn (s : State) (a : Agent) : s.takeTurn.txns a = s.txns a := by cases a <;> rfl

theorem retire_held (a : Agent) (s : State) (h : s.last = .held) : s.retire a = s := by simp [State.retire, h]

theorem retire_done (a : Agent) (s : State) (h : s.last ≠ .held) :
    s.retire a = s.setTxns a (s.txns a).tail := by simp [State.retire, h]

/-- `retire` writes the issued transactions and nothing else. -/
theorem retire_eq (a : Agent) (s : State) :
    s.retire a = { s with
      cpuTxns := (s.retire a).cpuTxns, hostTxns := (s.retire a).hostTxns, procTxns := (s.retire a).procTxns } := by
  unfold State.retire
  split <;> rfl

@[simp] theorem retire_mem (a : Agent) (s : State) : (s.retire a).mem = s.mem := by rw [retire_eq]
@[simp] theorem retire_io (a : Agent) (s : State) : (s.retire a).io = s.io := by rw [retire_eq]
@[simp] theorem retire_outq (a : Agent) (s : State) : (s.retire a).outq = s.outq := by rw [retire_eq]
@[simp] theorem retire_inq (a : Agent) (s : State) : (s.retire a).inq = s.inq := by rw [retire_eq]
@[simp] theorem retire_outqConsOpen (a : Agent) (s : State) : (s.retire a).outqConsOpen = s.outqConsOpen := by
  rw [retire_eq]
@[simp] theorem retire_inqConsOpen (a : Agent) (s : State) : (s.retire a).inqConsOpen = s.inqConsOpen := by
  rw [retire_eq]
@[simp] theorem retire_phase (a : Agent) (s : State) : (s.retire a).phase = s.phase := by rw [retire_eq]
@[simp] theorem retire_cpu (a : Agent) (s : State) : (s.retire a).cpu = s.cpu := by rw [retire_eq]
@[simp] theorem retire_host (a : Agent) (s : State) : (s.retire a).host = s.host := by rw [retire_eq]
@[simp] theorem retire_failCode (a : Agent) (s : State) : (s.retire a).failCode = s.failCode := by rw [retire_eq]
@[simp] theorem retire_exitCode (a : Agent) (s : State) : (s.retire a).exitCode = s.exitCode := by rw [retire_eq]
@[simp] theorem retire_refused (a : Agent) (s : State) : (s.retire a).refused = s.refused := by rw [retire_eq]
@[simp] theorem retire_cfg (a : Agent) (s : State) : (s.retire a).cfg = s.cfg := by rw [retire_eq]
@[simp] theorem retire_sched (a : Agent) (s : State) : (s.retire a).sched = s.sched := by rw [retire_eq]
@[simp] theorem retire_draws (a : Agent) (s : State) : (s.retire a).draws = s.draws := by rw [retire_eq]
@[simp] theorem retire_last (a : Agent) (s : State) : (s.retire a).last = s.last := by rw [retire_eq]

/-- An agent's list after its turn: as it was when the transaction held, else without its first. -/
theorem retire_txns (a b : Agent) (s : State) :
    (s.retire a).txns b = if s.last ≠ .held ∧ b = a then (s.txns b).tail else s.txns b := by
  by_cases h : s.last = .held
  · simp [retire_held a s h, h]
  · rw [retire_done a s h]
    by_cases hb : b = a
    · subst hb
      simp [h]
    · simp [hb, txns_setTxns_other hb]

/-! ### Steps -/

/-- What a step can do: refuse the configuration, idle, refuse the request, or run one transaction. -/
theorem step_cases {s t : State} (h : step s = .next t) :
    (configValid s.cfg = false ∧ t = refusedTurn .config s) ∨
    (configValid s.cfg = true ∧ ended s = none ∧ s.fetched = .idle ∧ t = idleTurn s) ∨
    (∃ r, configValid s.cfg = true ∧ ended s = none ∧ s.fetched = .refused r ∧ t = refusedTurn r s) ∨
    (∃ i u, configValid s.cfg = true ∧ ended s = none ∧ s.fetched = .run i ∧ exec i s.takeTurn = .next u ∧
      t = u.retire s.turn) := by
  unfold step runTurn at h
  cases hc : configValid s.cfg
  · simp only [hc, Bool.false_eq_true, if_false] at h
    injection h with h
    exact .inl ⟨rfl, h.symm⟩
  · simp only [hc, if_true] at h
    cases he : ended s with
    | some f => simp [he] at h
    | none =>
      simp only [he] at h
      cases hf : s.fetched with
      | idle =>
        simp only [hf] at h
        injection h with h
        exact .inr (.inl ⟨rfl, rfl, rfl, h.symm⟩)
      | refused r =>
        simp only [hf] at h
        injection h with h
        exact .inr (.inr (.inl ⟨r, rfl, rfl, rfl, h.symm⟩))
      | run i =>
        obtain ⟨u, hu⟩ := exec_total i s.takeTurn
        simp only [hf, hu, finishTurn] at h
        injection h with h
        exact .inr (.inr (.inr ⟨i, u, rfl, rfl, rfl, hu, h.symm⟩))

/-- A step that runs a transaction. -/
theorem step_run {s u : State} {i : Instr} (hc : configValid s.cfg = true) (he : ended s = none)
    (hf : s.fetched = .run i) (hu : exec i s.takeTurn = .next u) : step s = .next (u.retire s.turn) := by
  simp [step, runTurn, hc, he, hf, hu, finishTurn]

/-- Outside the terminal phases a step always answers a next state. -/
theorem step_total (s : State) (h : configValid s.cfg = false ∨ ended s = none) : ∃ t, step s = .next t := by
  cases hc : configValid s.cfg
  · exact ⟨_, by simp [step, runTurn, hc]; rfl⟩
  · have he : ended s = none := by simpa [hc] using h
    cases hf : s.fetched with
    | idle => exact ⟨_, by simp [step, runTurn, hc, he, hf]; rfl⟩
    | refused r => exact ⟨_, by simp [step, runTurn, hc, he, hf]; rfl⟩
    | run i =>
      obtain ⟨u, hu⟩ := exec_total i s.takeTurn
      exact ⟨_, step_run hc he hf hu⟩

theorem ended_eq_none (s : State) : ended s = none ↔ s.phase ≠ .exited ∧ s.phase ≠ .failed := by
  unfold ended
  cases s.phase <;> simp

/-- A fetched transaction is its agent's first, valid, and issued by its owner. -/
theorem fetched_run {s : State} {i : Instr} (h : s.fetched = .run i) :
    silenced s s.turn = false ∧ issuer i = s.turn ∧
      ∃ r rs, s.txns s.turn = r :: rs ∧ decode s.cfg.addrWidth r = .ok i := by
  unfold State.fetched at h
  cases hs : silenced s s.turn
  · simp only [hs, Bool.false_eq_true, if_false] at h
    cases ht : s.txns s.turn with
    | nil => simp [ht] at h
    | cons r rs =>
      simp only [ht, checkRequest] at h
      cases hd : decode s.cfg.addrWidth r with
      | error e => simp [hd] at h
      | ok j =>
        simp only [hd] at h
        by_cases ho : issuer j = s.turn
        · rw [if_pos ho] at h
          injection h with h
          subst h
          exact ⟨rfl, ho, r, rs, rfl, hd⟩
        · rw [if_neg ho] at h
          cases h
  · simp [hs] at h

/-- A transaction that decodes at its owner's turn is fetched. -/
theorem fetched_of_decode {s : State} {r : Request} {rs : List Request} {i : Instr}
    (hs : silenced s s.turn = false) (ht : s.txns s.turn = r :: rs) (hd : decode s.cfg.addrWidth r = .ok i)
    (ho : issuer i = s.turn) : s.fetched = .run i := by
  simp [State.fetched, hs, ht, checkRequest, hd, ho]

end Sys2Proof.Machine
end

