-- ==== Sys2Proof/Laws/PerInstr.lean ====
section
/-!
SUPPORT. Statements about every transaction, one lemma for each constructor.
-/
/-- Every encoding of a transaction is a word of its own row of the opcode table, and its `Z` is zero (30_encoding.md R52,
R55, R56). -/
def Sys2Proof.Laws.EncodingInRow.Statement (i : Sys2Proof.Instr) : Prop :=
  i.row.holds (Sys2Proof.encode i).word = true ∧ Sys2Proof.zField (Sys2Proof.encode i).word = 0 ∧
    i.row ∈ Sys2Proof.opcodeTable

namespace Sys2Proof.Laws.EncodingInRow

/-- A packed word belongs to a row when its fields under the row's masks are the row's fields. -/
theorem holds_packWord (m : String) (g : Agent) (op z po pz : BitVec 4) (a ma pa : BitVec 24) (d md pd : BitVec 8)
    (hop : op = po) (hz : z = pz) (ha : a &&& ma = pa) (hd : d &&& md = pd) :
    OpcodeRow.holds ⟨m, g, packWord po pz pa pd, packWord 0xF 0xF ma md⟩ (packWord op z a d) = true := by
  subst hop hz ha hd
  have h1 : op &&& 0xF = op := BitVec.and_allOnes
  have h2 : z &&& 0xF = z := BitVec.and_allOnes
  rw [OpcodeRow.holds, packWord_and, h1, h2, beq_self_eq_true]

/-- Every transaction's row stands in the table. -/
theorem row_mem (i : Instr) : i.row ∈ opcodeTable := by
  cases i <;> simp [opcodeTable, oneOfEach, Instr.row]

theorem memRd (a : MemAddr) : Statement (.memRd a) :=
  ⟨holds_packWord "MEM_RD" .cpu 0x0 0 0x0 0 a 0 0 0 0xFF 0 rfl rfl (by simp) (by simp), by simp [encode], row_mem _⟩

theorem memWr (a : MemAddr) (v : Byte) : Statement (.memWr a v) :=
  ⟨holds_packWord "MEM_WR" .cpu 0x1 0 0x1 0 a 0 0 v 0 0 rfl rfl (by simp) (by simp), by simp [encode], row_mem _⟩

theorem port_and_mask (p : Port) : p.setWidth 24 &&& 0xFF0000#24 = 0#24 := by
  apply BitVec.eq_of_getLsbD_eq
  intro j hj
  by_cases h : j < 16
  · have hm : (0xFF0000#24).getLsbD j = false := by
      have : ∀ k : Fin 16, (0xFF0000#24).getLsbD k.val = false := by decide
      exact this ⟨j, h⟩
    simp [hm]
  · simp [BitVec.getLsbD_of_ge p j (by omega)]

theorem ioRd (p : Port) : Statement (.ioRd p) :=
  ⟨holds_packWord "IO_RD" .cpu 0x2 0 0x2 0 (p.setWidth 24) 0xFF0000 0 0 0xFF 0 rfl rfl (port_and_mask p) (by simp),
    by simp [encode], row_mem _⟩

theorem ioWr (p : Port) (v : Byte) : Statement (.ioWr p v) :=
  ⟨holds_packWord "IO_WR" .cpu 0x3 0 0x3 0 (p.setWidth 24) 0xFF0000 0 v 0 0 rfl rfl (port_and_mask p) (by simp),
    by simp [encode], row_mem _⟩

theorem outqTryrecv : Statement .outqTryrecv := by unfold Statement; decide

theorem outqRecv : Statement .outqRecv := by unfold Statement; decide

theorem inqSend (v : Byte) : Statement (.inqSend v) :=
  ⟨holds_packWord "INQ_SEND" .host 0x6 0 0x6 0 0 0xFFFFFF 0 v 0 0 rfl rfl (by decide) (by simp), by simp [encode],
    row_mem _⟩

theorem inqTryrecv : Statement .inqTryrecv := by unfold Statement; decide

theorem inqRecv : Statement .inqRecv := by unfold Statement; decide

theorem outqClose : Statement .outqClose := by unfold Statement; decide

theorem inqClose : Statement .inqClose := by unfold Statement; decide

theorem load (img : Image) : Statement (.load img) :=
  ⟨by simp only [encode, Instr.op, Instr.addressField, Instr.dataField, Instr.row]; decide, by simp [encode],
    row_mem _⟩

theorem start (ok : Bool) : Statement (.start ok) := by cases ok <;> (unfold Statement; decide)

theorem quit : Statement .quit := by unfold Statement; decide

theorem procExit : Statement .procExit := by unfold Statement; decide

end Sys2Proof.Laws.EncodingInRow
end

