-- ==== Sys2Proof/Laws/Runs.lean ====
section
/-!
SUPPORT. The small lemmas of runs: how the state after a run, and what goes by in it, grow by one act, and when a domain has
no enabled transaction.
-/
namespace Sys2Proof.Machine

@[simp] theorem after_nil (s : State) : after [] s = s := rfl
@[simp] theorem after_cons (x : Act) (xs : List Act) (s : State) : after (x :: xs) s = after xs (act x s) := rfl

theorem after_append (xs ys : List Act) (s : State) : after (xs ++ ys) s = after ys (after xs s) := by
  induction xs generalizing s with
  | nil => rfl
  | cons x xs ih => exact ih (act x s)

theorem tally_append {α : Type} (f : Config → Option (Instr × TxnResult) → List α) (xs ys : List Act) (s : State) :
    tally f (xs ++ ys) s = tally f xs s ++ tally f ys (after xs s) := by
  induction xs generalizing s with
  | nil => rfl
  | cons x xs ih => simp only [List.cons_append, tally, ih, after_cons, List.append_assoc]

/-- One act shows at most one HOST event. -/
theorem hostEvents_length (o : Option (Instr × TxnResult)) : (hostEvents o).length ≤ 1 := by
  unfold hostEvents
  split
  · split <;> simp
  · simp

/-! ### Infinite runs -/

theorem actsFrom_succ (acts : Nat → Act) (n k : Nat) : actsFrom acts n (k + 1) = actsFrom acts n k ++ [acts (n + k)] := by
  simp [actsFrom, List.range_succ]

/-- The first `k` acts of an infinite run from point `n` on lead to its state at `n + k`. -/
theorem after_actsFrom {st : Nat → State} {acts : Nat → Act} (h : IsRun st acts) (n k : Nat) :
    after (actsFrom acts n k) (st n) = st (n + k) := by
  induction k with
  | zero => rfl
  | succ k ih =>
    rw [actsFrom_succ, after_append, ih, ← Nat.add_assoc, h]
    rfl

/-- What goes by in one act more. -/
theorem tally_actsFrom_succ {st : Nat → State} {acts : Nat → Act} (h : IsRun st acts) {α : Type}
    (f : Config → Option (Instr × TxnResult) → List α) (n k : Nat) :
    tally f (actsFrom acts n (k + 1)) (st n) = tally f (actsFrom acts n k) (st n) ++
      f (st (n + k)).cfg (actObserved (acts (n + k)) (st (n + k))) := by
  rw [actsFrom_succ, tally_append, after_actsFrom h]
  simp [tally]

/-! ### Enabled transactions -/

/-- A domain that is not `ACTIVE`, or has issued nothing, has no enabled transaction. -/
theorem readyTxn_none {s : State} {a : Agent} (h : s.domainActive a = false ∨ s.txns a = []) : s.readyTxn a = none := by
  rcases h with h | h
  · simp [State.readyTxn, h]
  · simp [State.readyTxn, h]

/-- A domain's enabled transaction is its first, valid and its own, and would take its step now. -/
theorem readyTxn_some {s : State} {a : Agent} {i : Instr} (h : s.readyTxn a = some i) :
    s.domainActive a = true ∧ configValid s.cfg = true ∧ terminal s = false ∧ takesStep i s = true ∧
      ∃ r rs, s.txns a = r :: rs ∧ checkRequest s.cfg a r = .run i := by
  unfold State.readyTxn at h
  split at h
  · rename_i hc
    simp only [Bool.and_eq_true, Bool.not_eq_true'] at hc
    cases ht : s.txns a with
    | nil => simp [ht] at h
    | cons r rs =>
      simp only [ht] at h
      cases hk : checkRequest s.cfg a r with
      | run j =>
        simp only [hk] at h
        split at h
        · injection h with h
          subst h
          exact ⟨hc.1.1, hc.1.2, hc.2, ‹_›, r, rs, rfl, hk⟩
        · cases h
      | refused q => simp [hk] at h
      | idle => simp [hk] at h
  · cases h

end Sys2Proof.Machine
end

