-- ==== Sys2Proof/Certificates/Slice0/Obligations.lean ====
section
/-!
DEFINITION. The statements for the provers. Each docstring names the sentence of the spec it formalises; where that
sentence is the spec's own decision (92_eei_decisions.md) or the model's (the assumption log), the docstring says so.
Throughout, the field `last` that holds a transaction's response, and a hold, a refusal or a fault of the block being a
next state, are the model's choice (log entries 5 and 6).
-/
open Sys2Proof Sys2Proof.Machine

/-! ## Encoding -/

/-- Words written out from 30_encoding.md R52, R53 and R56 (95_test_vectors.md M2, M9, I5, I10, E9-E12) decode to the
transactions they stand for. -/
def Obligations.DecodeReadsWrittenWords : Prop :=
  decode .w24 ⟨0x0000000300, .bytes []⟩ = .ok (.memRd 0x000003) ∧
  decode .w24 ⟨0x0001000000, .bytes []⟩ = .ok (.memRd 0x010000) ∧
  decode .w24 ⟨0x1004000055, .bytes []⟩ = .ok (.memWr 0x040000 0x55) ∧
  decode .w24 ⟨0x200000C000, .bytes []⟩ = .ok (.ioRd 0x00C0) ∧
  decode .w24 ⟨0x300000C041, .bytes []⟩ = .ok (.ioWr 0x00C0 0x41) ∧
  decode .w24 ⟨0x3000FFFFFF, .bytes []⟩ = .ok (.ioWr 0xFFFF 0xFF) ∧
  decode .w24 ⟨0x4000000000, .bytes []⟩ = .ok .outqTryrecv ∧
  decode .w24 ⟨0x60000000FF, .bytes []⟩ = .ok (.inqSend 0xFF) ∧
  decode .w24 ⟨0xB000000000, .bytes [0x3E]⟩ = .ok (.load (.bytes [0x3E])) ∧
  decode .w24 ⟨0xC000000001, .bytes []⟩ = .ok (.start true) ∧
  decode .w24 ⟨0xE000000000, .bytes []⟩ = .ok .procExit

/-- Decoding the encoding of a well-formed transaction gives it back, for every transaction, every operand and both
address widths (R52-R56, R60; the encoding is the spec's decision D11). -/
def Obligations.DecodeInvertsEncode : Prop :=
  ∀ (aw : AddrWidth) (i : Instr), i.wellFormed aw = true → decode aw (encode i) = .ok i

/-- A valid word has one meaning: the transaction decoded from it is well formed and encodes to that very word, and a
`LOAD` carries the image that stood beside it (R54, R60; the encoding is the spec's decision D11). -/
def Obligations.EncodeInvertsDecode : Prop :=
  ∀ (aw : AddrWidth) (r : Request) (i : Instr), decode aw r = .ok i →
    (encode i).word = r.word ∧ i.wellFormed aw = true ∧ ∀ img, i = .load img → img = r.img

/-- The decoder and the opcode table agree, in both address widths: a word decodes exactly when some row of the table
matches it and a memory address in it fits the width; and the row it matches is the decoded transaction's, alone (R55, R56,
R58; spec decisions D11, D12, D29). -/
def Obligations.DecodedWordsAreTableWords : Prop :=
  ∀ (aw : AddrWidth) (r : Request),
    ((∃ i, decode aw r = .ok i) ↔
      (∃ row ∈ opcodeTable, row.holds r.word = true) ∧
      (opField r.word ∈ [0x0, 0x1] → (aField r.word).toNat < 2 ^ aw.bits)) ∧
    ∀ i, decode aw r = .ok i → ∀ row ∈ opcodeTable, (row.holds r.word = true ↔ row = i.row)

/-- Exactly which words are invalid (R58 with R60's case list; spec decisions D12, D13, D29, D30). -/
def Obligations.InvalidWordsAreExactlyThose : Prop :=
  ∀ (aw : AddrWidth) (w : TxnWord) (img : Image),
    (∃ e, decode aw ⟨w, img⟩ = .error e) ↔
      opField w = 0xF ∨ zField w ≠ 0 ∨
      (opField w ∈ [0x0, 0x1] ∧ 2 ^ aw.bits ≤ (aField w).toNat) ∨
      (opField w ∈ [0x2, 0x3] ∧ aHigh (aField w) ≠ 0) ∨
      (opField w ∈ [0x0, 0x2] ∧ dField w ≠ 0) ∨
      (opField w = 0x6 ∧ aField w ≠ 0) ∨
      (opField w = 0xC ∧ (aField w ≠ 0 ∨ dHigh (dField w) ≠ 0)) ∨
      (opField w ∈ [0x4, 0x5, 0x7, 0x8, 0x9, 0xA, 0xB, 0xD, 0xE] ∧ (aField w ≠ 0 ∨ dField w ≠ 0))

/-- The 10-bit form of a response: the kind in bits 9..8, the byte in bits 7..0, zero unless the kind is `BYTE`; kind
0b11 is never produced (R62; spec decision D14). -/
def Obligations.ResponseBitsAsLaidOut : Prop :=
  (Response.bits .none).toNat = 0 ∧ (Response.bits .empty).toNat = 0x200 ∧
  (∀ b : Byte, (Response.bits (.byte b)).toNat = 0x100 + b.toNat) ∧
  ∀ r : Response, (Response.bits r).toNat / 2 ^ 8 ≠ 3

/-! ## One step -/

/-- A step runs the decoded transaction: in an accepted configuration and outside the terminal phases, when the agent
whose turn it is has not faulted, its first issued request decodes to a transaction, and the agent is its owner, the step
is that transaction's `exec` at the state with the turn used up. The request then leaves the agent's list, unless the
transaction held: then it stays first (R42, R59, R119, R137; the lists and the turns are the model's choice, log entries 3
and 4). -/
def Obligations.StepRunsDecodedTransaction : Prop :=
  ∀ (s : State) (r : Request) (rs : List Request) (i : Instr),
    configValid s.cfg = true → s.phase ≠ .exited → s.phase ≠ .failed → silenced s s.turn = false →
    s.txns s.turn = r :: rs → decode s.cfg.addrWidth r = .ok i → issuer i = s.turn →
    ∃ u, exec i s.takeTurn = .next u ∧
      step s = .next (if u.last = .held then u else u.setTxns s.turn rs)

/-- An invalid word is refused with `REF_INVALID`: `refused` is set, no other state of the block changes, there is no
response (R58, R136; spec decisions D12, D13; that the request leaves the list is the model's choice, log entry 6). -/
def Obligations.InvalidWordIsRefused : Prop :=
  ∀ (s : State) (r : Request) (rs : List Request) (e : DecodeError),
    configValid s.cfg = true → s.phase ≠ .exited → s.phase ≠ .failed → silenced s s.turn = false →
    s.txns s.turn = r :: rs → decode s.cfg.addrWidth r = .error e →
    step s = .next ({ s.takeTurn with refused := true, last := .refused .invalid }.setTxns s.turn rs)

/-- A valid word issued by an agent that is not its owner is refused with `REF_NOT_OWNER`, in every phase but the terminal
ones, and no other state of the block changes (R59, R136; spec decision D16; log entry 6). That a receive by another agent
than its owner is refused for that, also where its endpoint is closed, is log entry 8. -/
def Obligations.WrongIssuerIsRefused : Prop :=
  ∀ (s : State) (r : Request) (rs : List Request) (i : Instr),
    configValid s.cfg = true → s.phase ≠ .exited → s.phase ≠ .failed → silenced s s.turn = false →
    s.txns s.turn = r :: rs → decode s.cfg.addrWidth r = .ok i → issuer i ≠ s.turn →
    step s = .next ({ s.takeTurn with refused := true, last := .refused .notOwner }.setTxns s.turn rs)

/-- The configurations the model accepts are exactly those of R8 with the inert receive path of R6 (spec decisions D32,
D38). -/
def Obligations.AcceptedConfigurations : Prop :=
  ∀ c : Config, configValid c = true ↔
    1 ≤ c.romSize ∧ 1 ≤ c.ramSize ∧ c.romSize + c.ramSize ≤ 2 ^ c.addrWidth.bits ∧
    (c.txAddr ≠ c.ctsAddr ∧ c.txAddr ≠ c.lsrAddr ∧ c.txAddr ≠ c.tmrLoAddr ∧ c.txAddr ≠ c.tmrHiAddr ∧
      c.ctsAddr ≠ c.lsrAddr ∧ c.ctsAddr ≠ c.tmrLoAddr ∧ c.ctsAddr ≠ c.tmrHiAddr ∧
      c.lsrAddr ≠ c.tmrLoAddr ∧ c.lsrAddr ≠ c.tmrHiAddr ∧ c.tmrLoAddr ≠ c.tmrHiAddr) ∧
    c.rxMode = .inert

/-- In any other configuration every step refuses with `REF_CONFIG` and changes nothing else of the block: no
transaction has an effect there (R8, R136; spec decision D38; log entry 6). -/
def Obligations.RefusedConfigurationHasNoEffect : Prop :=
  ∀ s : State, configValid s.cfg = false →
    step s = .next ({ s.takeTurn with refused := true, last := .refused .config }.setTxns s.turn (s.txns s.turn).tail)

/-- No transaction of any agent has a step in `EXITED` or `FAILED`, and those are the only states of an accepted
configuration in which the machine has no next state (R117; spec decision D15; that the step answers a fault there is the
model's choice, log entry 7). -/
def Obligations.TerminalPhasesHaveNoStep : Prop :=
  ∀ s : State, configValid s.cfg = true →
    (s.phase = .exited → step s = .fault .runExited) ∧
    (s.phase = .failed → step s = .fault .runFailed) ∧
    (s.phase ≠ .exited → s.phase ≠ .failed → ∃ t, step s = .next t)

/-- A faulted domain issues no further transaction: at its turn nothing happens to the block and its issued transactions
stay (R132; spec decision D18; log entry 8). -/
def Obligations.FaultedDomainIssuesNothing : Prop :=
  ∀ s : State, configValid s.cfg = true → s.phase ≠ .exited → s.phase ≠ .failed →
    ((s.turn = .cpu ∧ ∃ f, s.cpu = .faulted f) ∨ (s.turn = .host ∧ ∃ f, s.host = .faulted f)) →
    step s = .next { s.takeTurn with last := .idle }

/-! ## Memory -/

/-- `MEM_RD a` completes, and returns the cell or the open-bus byte; nothing else changes (R67, R68; spec decision D4). -/
def Obligations.MemRdReturnsByte : Prop :=
  ∀ (s : State) (a : MemAddr), (s.phase = .running ∨ s.phase = .exiting) → s.cpu = .active →
    exec (.memRd a) s = .next { s with
      last := .returned (.byte (if a.toNat < s.cfg.total then Memory.get s.mem a.toNat
        else s.cfg.openBus)) }

/-- `MEM_WR a, v` completes. In range, cell `a` then holds `v` and every other cell what it held; out of range no cell
changes. No other state changes (R70, R71). -/
def Obligations.MemWrStoresByte : Prop :=
  ∀ (s : State) (a : MemAddr) (v : Byte), (s.phase = .running ∨ s.phase = .exiting) → s.cpu = .active →
    Memory.wf s.mem = true →
    ∃ t, exec (.memWr a v) s = .next t ∧ t.last = .returned .none ∧ { t with mem := s.mem, last := s.last } = s ∧
      (a.toNat < s.cfg.total →
        ∀ x, Memory.get t.mem x = if x = a.toNat then v else Memory.get s.mem x) ∧
      (s.cfg.total ≤ a.toNat → t.mem = s.mem)

/-- Read after write, with any transactions in between that do not write the cell: the read returns the written byte
(R72, R45; the transactions are those of every agent). -/
def Obligations.ReadAfterWrite : Prop :=
  ∀ (s : State) (a : MemAddr) (v : Byte) (is : List Instr),
    (s.phase = .running ∨ s.phase = .exiting) → s.cpu = .active → Memory.wf s.mem = true →
    a.toNat < s.cfg.total → (∀ w, Instr.memWr a w ∉ is) →
    memRead (runTxns is (runTxn (.memWr a v) s)) a = v

/-- The range test is unsigned on the whole address: below `TOTAL` an address is read from its own cell, at or above
`TOTAL` from no cell, as the open-bus byte, and a write there leaves every cell alone, so no later in-range read sees it
(R38). -/
def Obligations.OutOfRangeNeverAliases : Prop :=
  ∀ (s : State) (a : MemAddr) (v : Byte),
    (a.toNat < s.cfg.total → memRead s a = Memory.get s.mem a.toNat) ∧
    (s.cfg.total ≤ a.toNat →
      memRead s a = s.cfg.openBus ∧
      (∀ k, Memory.get (runTxn (.memWr a v) s).mem k = Memory.get s.mem k) ∧
      ∀ (is : List Instr) (x : MemAddr), x.toNat < s.cfg.total →
        memRead (runTxns is (runTxn (.memWr a v) s)) x = memRead (runTxns is s) x)

/-- An out-of-range access is not a fault: the read returns the open-bus byte, the write is discarded, both respond, and
nothing is recorded; the CPU cannot tell it from a read of a cell that holds the open-bus byte (R133). -/
def Obligations.OutOfRangeIsNoFault : Prop :=
  ∀ (s : State) (a : MemAddr) (v : Byte), (s.phase = .running ∨ s.phase = .exiting) → s.cpu = .active →
    s.cfg.total ≤ a.toNat →
    exec (.memRd a) s = .next { s with last := .returned (.byte s.cfg.openBus) } ∧
    exec (.memWr a v) s = .next { s with last := .returned .none } ∧
    ∀ b : MemAddr, b.toNat < s.cfg.total → Memory.get s.mem b.toNat = s.cfg.openBus →
      exec (.memRd b) s = exec (.memRd a) s

/-! ## Ports -/

/-- `IO_RD p` completes, and returns the constant of a synthetic port or the stored byte; nothing else changes (R77, R78;
the port numbers are parameters, spec decisions D6, D7). -/
def Obligations.IoRdReturnsByte : Prop :=
  ∀ (s : State) (p : Port), (s.phase = .running ∨ s.phase = .exiting) → s.cpu = .active →
    exec (.ioRd p) s = .next { s with
      last := .returned (.byte (
        if p = s.cfg.ctsAddr then s.cfg.ctsVal
        else if p = s.cfg.lsrAddr then s.cfg.lsrVal
        else if p = s.cfg.tmrLoAddr ∨ p = s.cfg.tmrHiAddr then 0x00
        else Memory.get s.io p.toNat)) }

/-- `IO_WR p, v` at every port but `P_TX_ADDR`, and there while the outbound consumer exists, completes. Cell `p` of `io`
then holds `v` and every other cell what it held; at `P_TX_ADDR` alone the byte joins the tail of `outq`; no other state
changes (R81, R82; spec decisions D5, D17). -/
def Obligations.IoWrStoresAndTransmits : Prop :=
  ∀ (s : State) (p : Port) (v : Byte), (s.phase = .running ∨ s.phase = .exiting) → s.cpu = .active →
    Memory.wf s.io = true → (p = s.cfg.txAddr → s.outqConsOpen = true) →
    ∃ t, exec (.ioWr p v) s = .next t ∧ t.last = .returned .none ∧
      { t with io := s.io, outq := s.outq, last := s.last } = s ∧
      (∀ x, Memory.get t.io x = if x = p.toNat then v else Memory.get s.io x) ∧
      t.outq = if p = s.cfg.txAddr then s.outq ++ [v] else s.outq

/-- A producer that sends on a queue whose consumer endpoint is torn down raises `F_TRANSPORT_DISCONNECTED`, with the
queue: the CPU domain from `IO_WR P_TX_ADDR`, whose byte is stored first and not enqueued, the host domain from
`INQ_SEND`. The domain is then `FAULTED`; nothing else changes, and there is no response (R131, R97; that the byte is stored
before the fault is R81 and R84, spec decision D17; the `FAULTED` domain is R28 and R132, spec decisions D15, D18; that the
record carries the queue is log entry 10). -/
def Obligations.SendToClosedEndpointFaults : Prop :=
  ∀ (s : State) (v : Byte), (s.phase = .running ∨ s.phase = .exiting) →
    (s.cpu = .active → s.outqConsOpen = false →
      exec (.ioWr s.cfg.txAddr v) s = .next { s with
        io := Memory.set s.io s.cfg.txAddr.toNat v
        cpu := .faulted (.transportDisconnected .outbound)
        last := .faulted (.transportDisconnected .outbound) }) ∧
    (s.host = .active → s.inqConsOpen = false →
      exec (.inqSend v) s = .next { s with
        host := .faulted (.transportDisconnected .inbound)
        last := .faulted (.transportDisconnected .inbound) })

/-- A firmware write to a synthetic port does not change its read value: whatever was written to CTS, LSR or a timer
port, reading it back returns the constant (R156, with R8's distinct ports). -/
def Obligations.SyntheticPortsIgnoreWrites : Prop :=
  ∀ (s : State) (v : Byte), (s.phase = .running ∨ s.phase = .exiting) → s.cpu = .active → configValid s.cfg = true →
    ∀ p c, (p, c) ∈ [(s.cfg.ctsAddr, s.cfg.ctsVal), (s.cfg.lsrAddr, s.cfg.lsrVal), (s.cfg.tmrLoAddr, 0x00),
        (s.cfg.tmrHiAddr, 0x00)] →
      ∃ t u, exec (.ioWr p v) s = .next t ∧ exec (.ioRd p) t = .next u ∧ u.last = .returned (.byte c) ∧
        portRead s p = c

/-- The timer ports read 0x00 at every moment: in every state of an accepted configuration, whatever ran before (R85). -/
def Obligations.TimerPortsReadZero : Prop :=
  ∀ (s : State) (is : List Instr) (p : Port), configValid s.cfg = true →
    (p = s.cfg.tmrLoAddr ∨ p = s.cfg.tmrHiAddr) →
    cpuEnabled (runTxns is s) = true →
    ∃ t, exec (.ioRd p) (runTxns is s) = .next t ∧ t.last = .returned (.byte 0x00)

/-- A stored port, `P_TX_ADDR` among them, reads back the byte last written, with any transactions in between that do
not write it; and reads 0x00 from reset before any write (R80, R18, R21). -/
def Obligations.StoredPortsReadBack : Prop :=
  ∀ (p : Port) (is : List Instr), (∀ w, Instr.ioWr p w ∉ is) →
    (∀ (s : State) (v : Byte), (s.phase = .running ∨ s.phase = .exiting) → s.cpu = .active → Memory.wf s.io = true →
      isSynthetic s.cfg p = false → portRead (runTxns is (runTxn (.ioWr p v) s)) p = v) ∧
    (∀ c : Config, isSynthetic c p = false → portRead (runTxns is (State.resetWith c)) p = 0x00)

/-- Transmit ordering: the CPU engine's transactions put exactly the bytes they write to `P_TX_ADDR` on `outq`, in write
order, however interleaved with other port and memory operations, while nothing dequeues and no write faults (R83). -/
def Obligations.TransmitKeepsWriteOrder : Prop :=
  ∀ (s : State) (is : List Instr), (s.phase = .running ∨ s.phase = .exiting) → s.cpu = .active →
    s.outqConsOpen = true → (∀ i ∈ is, cpuAgentIssues i = true) →
    (runTxns is s).outq = s.outq ++ transmitted s.cfg is

/-! ## Transport -/

/-- `OUTQ_TRYRECV` and `OUTQ_RECV` on a non-empty queue complete: the head leaves and is the response, bit for bit.
`OUTQ_TRYRECV` on an empty queue completes with `EMPTY` and changes nothing else (R91, R92, R94; R106). -/
def Obligations.OutboundReceivesComplete : Prop :=
  ∀ s : State, (s.phase = .running ∨ s.phase = .exiting) → s.host = .active → s.outqConsOpen = true →
    (s.outq = [] → exec .outqTryrecv s = .next { s with last := .returned .empty }) ∧
    ∀ b q, s.outq = b :: q →
      exec .outqTryrecv s = .next { s with outq := q, last := .returned (.byte b) } ∧
      exec .outqRecv s = .next { s with outq := q, last := .returned (.byte b) }

/-- `INQ_TRYRECV` and `INQ_RECV` on a non-empty queue complete: the head leaves and is the response. `INQ_TRYRECV` on an
empty queue completes with `EMPTY` (R99, R100; spec decision D31). -/
def Obligations.InboundReceivesComplete : Prop :=
  ∀ s : State, (s.phase = .running ∨ s.phase = .exiting) → s.cpu = .active → s.inqConsOpen = true →
    (s.inq = [] → exec .inqTryrecv s = .next { s with last := .returned .empty }) ∧
    ∀ b q, s.inq = b :: q →
      exec .inqTryrecv s = .next { s with inq := q, last := .returned (.byte b) } ∧
      exec .inqRecv s = .next { s with inq := q, last := .returned (.byte b) }

/-- `INQ_SEND v` completes while the inbound consumer exists, however long `inq` is: the byte joins the tail (R97,
R90). -/
def Obligations.InqSendEnqueues : Prop :=
  ∀ (s : State) (v : Byte), (s.phase = .running ∨ s.phase = .exiting) → s.host = .active → s.inqConsOpen = true →
    exec (.inqSend v) s = .next { s with inq := s.inq ++ [v], last := .returned .none }

/-- `OUTQ_CLOSE` and `INQ_CLOSE` complete, and tear down their endpoint; the queue's bytes stay; closing twice is closing
once (R102, R104; spec decision D20; that `INQ_CLOSE` needs an active CPU domain is R120's table, log entry 9). -/
def Obligations.ClosesComplete : Prop :=
  ∀ s : State, (s.phase = .running ∨ s.phase = .exiting) →
    ((s.host = .active ∨ s.host = .done) →
      exec .outqClose s = .next { s with outqConsOpen := false, last := .returned .none }) ∧
    (s.cpu = .active → exec .inqClose s = .next { s with inqConsOpen := false, last := .returned .none })

/-- A receive at a consumer endpoint that is torn down is refused with `REF_CLOSED_ENDPOINT`, in every phase but the
terminal ones and whatever is queued, and no other state of the block changes (R93, R99, R100, R139; spec decision D20; the
order of this refusal and the hold is log entry 8). -/
def Obligations.ReceiveAtClosedEndpointIsRefused : Prop :=
  ∀ s : State, s.phase ≠ .exited → s.phase ≠ .failed →
    (s.outqConsOpen = false → ∀ i ∈ [Instr.outqTryrecv, Instr.outqRecv],
      exec i s = .next { s with refused := true, last := .refused .closedEndpoint }) ∧
    (s.inqConsOpen = false → ∀ i ∈ [Instr.inqTryrecv, Instr.inqRecv],
      exec i s = .next { s with refused := true, last := .refused .closedEndpoint })

/-- A blocking receive on an empty queue holds: nothing of the block changes. The one thing that lifts it is an enqueue on
that queue by its producer, a CPU `IO_WR P_TX_ADDR` or a HOST `INQ_SEND` that does not fault; after it the receive can
step. Until then the state is no final one (R95). -/
def Obligations.BlockingReceiveHoldsUntilEnqueue : Prop :=
  ∀ s : State, (s.phase = .running ∨ s.phase = .exiting) →
    (s.host = .active → s.outqConsOpen = true → s.outq = [] →
      exec .outqRecv s = .next { s with last := .held } ∧ ended s = none ∧
      (∀ i t, exec i s = .next t → t.outq ≠ [] → ∃ v, i = .ioWr s.cfg.txAddr v ∧ t.last = .returned .none) ∧
      (∀ v t, exec (.ioWr s.cfg.txAddr v) s = .next t → t.last = .returned .none →
        exec .outqRecv t = .next { t with outq := [], last := .returned (.byte v) })) ∧
    (s.cpu = .active → s.inqConsOpen = true → s.inq = [] →
      exec .inqRecv s = .next { s with last := .held } ∧ ended s = none ∧
      (∀ i t, exec i s = .next t → t.inq ≠ [] → ∃ v, i = .inqSend v ∧ t.last = .returned .none) ∧
      (∀ v t, exec (.inqSend v) s = .next t → t.last = .returned .none →
        exec .inqRecv t = .next { t with inq := [], last := .returned (.byte v) }))

/-- The two queues are independent: no transaction on one reads or writes the other (R96). A change of the other queue
and its endpoint commutes with every transaction that is not on that queue. -/
def Obligations.QueuesAreIndependent : Prop :=
  (∀ i ∈ [Instr.outqTryrecv, .outqRecv, .outqClose, .quit], ∀ (s t : State) (q : List Byte) (o : Bool),
    exec i s = .next t →
      t.inq = s.inq ∧ t.inqConsOpen = s.inqConsOpen ∧
      exec i { s with inq := q, inqConsOpen := o } = .next { t with inq := q, inqConsOpen := o }) ∧
  (∀ (p : Port) (v : Byte) (s t : State) (q : List Byte) (o : Bool), exec (.ioWr p v) s = .next t →
      t.inq = s.inq ∧ t.inqConsOpen = s.inqConsOpen ∧
      exec (.ioWr p v) { s with inq := q, inqConsOpen := o } = .next { t with inq := q, inqConsOpen := o }) ∧
  (∀ i ∈ [Instr.inqTryrecv, .inqRecv, .inqClose], ∀ (s t : State) (q : List Byte) (o : Bool), exec i s = .next t →
      t.outq = s.outq ∧ t.outqConsOpen = s.outqConsOpen ∧
      exec i { s with outq := q, outqConsOpen := o } = .next { t with outq := q, outqConsOpen := o }) ∧
  (∀ (v : Byte) (s t : State) (q : List Byte) (o : Bool), exec (.inqSend v) s = .next t →
      t.outq = s.outq ∧ t.outqConsOpen = s.outqConsOpen ∧
      exec (.inqSend v) { s with outq := q, outqConsOpen := o } = .next { t with outq := q, outqConsOpen := o })

/-- Each queue is FIFO in every run, whatever agents issue and whoever's turn it is: what was queued, then what was sent,
is what was received, then what is queued still. So the bytes received are a prefix, with no loss, duplication,
reordering or invention (R46). -/
def Obligations.QueuesAreFifo : Prop :=
  ∀ (acts : List Act) (s : State),
    s.outq ++ tally sentOut acts s = tally (fun _ => receivedOut) acts s ++ (after acts s).outq ∧
    s.inq ++ tally (fun _ => sentIn) acts s = tally (fun _ => receivedIn) acts s ++ (after acts s).inq

/-- A `DRAIN` with nothing interleaved takes every queued byte, in order, then meets `EMPTY` and ends, with `outq` empty
and nothing else changed. With any number of `INQ_SEND`s before, inside or after it, it is a tick (R64, R124; spec decision
D21). -/
def Obligations.DrainTakesTheWholeQueue : Prop :=
  ∀ (s : State) (fuel : Nat), (s.phase = .running ∨ s.phase = .exiting) → s.host = .active → s.outqConsOpen = true →
    s.outq.length < fuel →
    drain fuel s = (s.outq.map Response.byte ++ [.empty], { s with outq := [], last := .returned .empty }) ∧
    ∀ es : List HostEvent,
      es.filter (fun e => hostEventKind e != .send) = (drain fuel s).1.map (fun r => (.outqTryrecv, .returned r)) →
      isTick es = true

/-- Under fairness a queued byte is delivered: in an infinite run in which the host goes on polling and the outbound
consumer stays open, the host receives the bytes queued ahead of it, in order, and then the byte itself (R127; spec
decision D36). -/
def Obligations.PollingHostReceivesEveryByte : Prop :=
  ∀ (st : Nat → State) (acts : Nat → Act), IsRun st acts → HostKeepsPolling st acts →
    (∀ n, (st n).outqConsOpen = true) →
    ∀ n ahead b behind, (st n).outq = ahead ++ b :: behind →
      ∃ k, tally (fun _ => receivedOut) (actsFrom acts n k) (st n) = ahead ∧
        receivedOut (actObserved (acts (n + k)) (st (n + k))) = [b]

/-! ## Lifecycle -/

/-- `LOAD` of an image that fits completes: byte `i` is at address `i`, every cell past the image keeps its byte,
`phase = LOADED`, no other state changes (R107; spec decision D24 accepts the empty image). -/
def Obligations.LoadCopiesTheImage : Prop :=
  ∀ (s : State) (img : List Byte), s.phase = .preLoad → Memory.wf s.mem = true → img.length ≤ s.cfg.total →
    ∃ t, exec (.load (.bytes img)) s = .next t ∧ t.last = .returned .none ∧ t.phase = .loaded ∧
      { t with mem := s.mem, phase := s.phase, last := s.last } = s ∧
      (∀ (i : Nat) (h : i < img.length), Memory.get t.mem i = img[i]) ∧
      ∀ i, img.length ≤ i → Memory.get t.mem i = Memory.get s.mem i

/-- After a successful `LOAD` at reset, cell `i` is byte `i` of the image or 0x00, every read is as R68 says, and every
other field of the block has its reset value but `phase` (R149). -/
def Obligations.StateAfterLoad : Prop :=
  ∀ (c : Config) (img : List Byte), img.length ≤ c.total →
    ∃ t, exec (.load (.bytes img)) (State.resetWith c) = .next t ∧
      { t with mem := [], phase := .preLoad, last := .idle } = State.resetWith c ∧ t.phase = .loaded ∧
      ∀ a : MemAddr, memRead t a = if a.toNat < c.total then img.getD a.toNat 0x00 else c.openBus

/-- The startup faults of `LOAD`: an unreadable image, and one of more than `TOTAL` bytes, end the run as `FAILED` with
their code and exit code; no cell is written (R108, R109, R129; spec decisions D18, D19; the exit code is the parameter,
log entry 11). -/
def Obligations.LoadFailuresEndTheRun : Prop :=
  ∀ s : State, s.phase = .preLoad →
    exec (.load .unreadable) s = .next { s with
      phase := .failed, failCode := some .imageUnreadable, exitCode := some s.cfg.exitUnreadable.val
      last := .faulted .imageUnreadable } ∧
    ∀ img : List Byte, s.cfg.total < img.length →
      exec (.load (.bytes img)) s = .next { s with
        phase := .failed, failCode := some (.imageTooLarge img.length), exitCode := some s.cfg.exitTooLarge.val
        last := .faulted (.imageTooLarge img.length) }

/-- `START ok` completes: both domains are `ACTIVE` and `phase = RUNNING`. `START fail` ends the run as `FAILED`, and
neither domain becomes `ACTIVE` (R110, R111; spec decisions D15, D19, D37; the exit code is the parameter, log entry 11). -/
def Obligations.StartStartsBothDomainsOrFails : Prop :=
  ∀ s : State, s.phase = .loaded →
    exec (.start true) s = .next { s with
      cpu := .active, host := .active, phase := .running, last := .returned .none } ∧
    exec (.start false) s = .next { s with
      phase := .failed, failCode := some .hostSurface, exitCode := some s.cfg.exitSurface.val
      last := .faulted .hostSurface }

/-- `QUIT` completes: the host domain is `DONE`, the outbound consumer is gone, `phase = EXITING`; the CPU domain is not
stopped and the bytes on `outq` stay (R113; spec decision D20). -/
def Obligations.QuitShutsTheHostDown : Prop :=
  ∀ s : State, s.phase = .running → s.host = .active →
    exec .quit s = .next { s with
      host := .done, outqConsOpen := false, phase := .exiting, last := .returned .none }

/-- `PROC_EXIT` completes: exit code 0 and `phase = EXITED`, even if the CPU domain has faulted (R115; spec decisions D19,
D20). -/
def Obligations.ProcExitEndsTheRun : Prop :=
  ∀ s : State, s.phase = .exiting →
    exec .procExit s = .next { s with exitCode := some 0, phase := .exited, last := .returned .none }

/-- After a quit, a transmit faults the CPU domain: whatever ran between, until `PROC_EXIT`, the next
`IO_WR P_TX_ADDR` of a CPU domain still `ACTIVE` raises `F_TRANSPORT_DISCONNECTED` and stops it (R157). -/
def Obligations.TransmitAfterQuitFaults : Prop :=
  ∀ (s : State) (is : List Instr) (v : Byte), s.phase = .running → s.host = .active → Instr.procExit ∉ is →
    (runTxns is (runTxn .quit s)).cpu = .active →
    ∃ t, exec (.ioWr s.cfg.txAddr v) (runTxns is (runTxn .quit s)) = .next t ∧
      t.cpu = .faulted (.transportDisconnected .outbound) ∧ t.last = .faulted (.transportDisconnected .outbound)

/-- A transaction whose phase or domain condition does not hold has no step: it holds, and nothing of the block changes
(R59, R120; spec decisions D15, D16; `INQ_CLOSE` as R120's table has it, log entry 9). A receive at a closed endpoint, which
is refused instead (log entry 8), holds in the terminal phases (R117). -/
def Obligations.NotEnabledHolds : Prop :=
  ∀ (i : Instr) (s : State), (endpointOpen i s = true ∨ s.phase = .exited ∨ s.phase = .failed) →
    (match i with
      | .memRd _ | .memWr _ _ | .ioRd _ | .ioWr _ _ | .inqTryrecv | .inqRecv | .inqClose =>
        ¬ ((s.phase = .running ∨ s.phase = .exiting) ∧ s.cpu = .active)
      | .outqTryrecv | .outqRecv | .inqSend _ =>
        ¬ ((s.phase = .running ∨ s.phase = .exiting) ∧ s.host = .active)
      | .outqClose =>
        ¬ ((s.phase = .running ∨ s.phase = .exiting) ∧ (s.host = .active ∨ s.host = .done))
      | .quit     => ¬ (s.phase = .running ∧ s.host = .active)
      | .load _   => s.phase ≠ .preLoad
      | .start _  => s.phase ≠ .loaded
      | .procExit => s.phase ≠ .exiting) →
    exec i s = .next { s with last := .held }

/-- The reset state, in every configuration: every cell of `mem` and `io` 0x00, the queues empty, the endpoints open,
`PRE_LOAD`, both domains `IDLE`, no codes, nothing refused (R148; spec decisions D15, D27; nothing is said of the model's
own fields). The machine's reset is that of TC1. -/
def Obligations.ResetValues : Prop :=
  State.reset = State.resetWith Config.tc1 ∧
  ∀ c : Config, let s := State.resetWith c
    (∀ a, Memory.get s.mem a = 0x00) ∧ (∀ p, Memory.get s.io p = 0x00) ∧ s.outq = [] ∧ s.inq = [] ∧
    s.outqConsOpen = true ∧ s.inqConsOpen = true ∧ s.phase = .preLoad ∧ s.cpu = .idle ∧ s.host = .idle ∧
    s.failCode = none ∧ s.exitCode = none ∧ s.refused = false

/-! ## Frames -/

/-- `MEM_RD` and `IO_RD` change no state: only the response is new. -/
def Obligations.ReadsChangeNothing : Prop :=
  ∀ (s t : State) (a : MemAddr) (p : Port), (exec (.memRd a) s = .next t ∨ exec (.ioRd p) s = .next t) →
    { t with last := s.last } = s

/-- `MEM_WR a` leaves every other address's byte, every port and every other field alone; `IO_WR p` leaves every address,
every other port and every field alone but `io`, at `P_TX_ADDR` `outq`, and on a fault `cpu`. -/
def Obligations.WriteFrames : Prop :=
  (∀ (s t : State) (a : MemAddr) (v : Byte), Memory.wf s.mem = true → exec (.memWr a v) s = .next t →
    (∀ x : MemAddr, x ≠ a → memRead t x = memRead s x) ∧ (∀ q : Port, portRead t q = portRead s q) ∧
    { t with mem := s.mem, last := s.last } = s) ∧
  (∀ (s t : State) (p : Port) (v : Byte), Memory.wf s.io = true → exec (.ioWr p v) s = .next t →
    (∀ x : MemAddr, memRead t x = memRead s x) ∧ (∀ q : Port, q ≠ p → portRead t q = portRead s q) ∧
    (∀ x, x ≠ p.toNat → Memory.get t.io x = Memory.get s.io x) ∧
    { t with io := s.io, outq := s.outq, cpu := s.cpu, last := s.last } = s ∧
    (p ≠ s.cfg.txAddr → t.outq = s.outq ∧ t.cpu = s.cpu) ∧
    (s.outqConsOpen = true → t.cpu = s.cpu) ∧ (s.outqConsOpen = false → t.outq = s.outq))

/-- The queue transactions leave every address and every port alone, and every field but their own queue, their own
endpoint, and on the disconnection fault `host`, and on a refusal `refused`. -/
def Obligations.QueueFrames : Prop :=
  ∀ (i : Instr) (s t : State), exec i s = .next t →
    (∀ x : MemAddr, i ∈ [.outqTryrecv, .outqRecv, .outqClose, .inqTryrecv, .inqRecv, .inqClose] ∨ (∃ v, i = .inqSend v) →
      memRead t x = memRead s x) ∧
    (∀ q : Port, i ∈ [.outqTryrecv, .outqRecv, .outqClose, .inqTryrecv, .inqRecv, .inqClose] ∨ (∃ v, i = .inqSend v) →
      portRead t q = portRead s q) ∧
    (i ∈ [.outqTryrecv, .outqRecv] → { t with outq := s.outq, refused := s.refused, last := s.last } = s) ∧
    (i ∈ [.inqTryrecv, .inqRecv] → { t with inq := s.inq, refused := s.refused, last := s.last } = s) ∧
    (i = .outqClose → { t with outqConsOpen := s.outqConsOpen, last := s.last } = s) ∧
    (i = .inqClose → { t with inqConsOpen := s.inqConsOpen, last := s.last } = s) ∧
    ((∃ v, i = .inqSend v) → { t with inq := s.inq, host := s.host, last := s.last } = s ∧
      (s.inqConsOpen = true → t.host = s.host) ∧ (s.inqConsOpen = false → t.inq = s.inq))

/-- The lifecycle transactions leave every port alone, `LOAD` the addresses past its image, the others every address; and
each leaves every field alone but those its rule writes. -/
def Obligations.LifecycleFrames : Prop :=
  (∀ (s t : State) (img : Image), Memory.wf s.mem = true → exec (.load img) s = .next t →
    (∀ q : Port, portRead t q = portRead s q) ∧
    (∀ x : MemAddr, (∀ bs, img = .bytes bs → bs.length ≤ s.cfg.total → bs.length ≤ x.toNat) →
      memRead t x = memRead s x) ∧
    { t with mem := s.mem, phase := s.phase, failCode := s.failCode, exitCode := s.exitCode, last := s.last } = s) ∧
  (∀ (s t : State) (ok : Bool), exec (.start ok) s = .next t →
    (∀ q : Port, portRead t q = portRead s q) ∧ (∀ x : MemAddr, memRead t x = memRead s x) ∧
    { t with cpu := s.cpu, host := s.host, phase := s.phase, failCode := s.failCode, exitCode := s.exitCode,
             last := s.last } = s) ∧
  (∀ s t : State, exec .quit s = .next t →
    (∀ q : Port, portRead t q = portRead s q) ∧ (∀ x : MemAddr, memRead t x = memRead s x) ∧
    { t with host := s.host, outqConsOpen := s.outqConsOpen, phase := s.phase, last := s.last } = s) ∧
  (∀ s t : State, exec .procExit s = .next t →
    (∀ q : Port, portRead t q = portRead s q) ∧ (∀ x : MemAddr, memRead t x = memRead s x) ∧
    { t with exitCode := s.exitCode, phase := s.phase, last := s.last } = s)

/-! ## The whole machine -/

/-- The invariants hold at reset, in every configuration. -/
def Obligations.InvariantsAtReset : Prop :=
  ∀ c : Config, storesWf (State.resetWith c) = true ∧ lifecycleInv (State.resetWith c) = true

/-- Every step keeps both byte stores canonical and inside their address spaces (R17, R18). -/
def Obligations.StepsKeepStoresCanonical : Prop :=
  ∀ s t : State, storesWf s = true → step s = .next t → storesWf t = true

/-- Every step keeps the lifecycle invariant: what each phase says of the domains, the codes and the endpoints, and that a
domain has faulted only at a closed endpoint (R27, R28, R113, R115, R130, R131; spec decisions D15, D18; the exit code of
a startup fault is log entry 11). -/
def Obligations.StepsKeepLifecycle : Prop :=
  ∀ s t : State, lifecycleInv s = true → step s = .next t → lifecycleInv t = true

/-- The phase changes only as R27 lists, each time by the transaction it names (R27; spec decision D15). A run that enters
`FAILED` ends with a non-zero exit code, one that enters `EXITED` with exit code 0 (R117; the code of a failure is the
parameter, log entry 11). -/
def Obligations.PhaseTransitionsAsListed : Prop :=
  ∀ s t : State, step s = .next t →
    phaseMayFollow s.phase t.phase = true ∧
    (t.phase ≠ s.phase →
      (s.phase = .preLoad ∧ ∃ img, s.nextTxn = some (.load img) ∧
        (t.phase = .loaded ∧ t.last = .returned .none ∨ t.phase = .failed ∧ ∃ f, t.last = .faulted f)) ∨
      (s.phase = .loaded ∧ ∃ ok, s.nextTxn = some (.start ok) ∧ t.phase = if ok then .running else .failed) ∨
      (s.phase = .running ∧ s.nextTxn = some .quit ∧ t.phase = .exiting) ∨
      (s.phase = .exiting ∧ s.nextTxn = some .procExit ∧ t.phase = .exited)) ∧
    (s.phase ≠ .failed → t.phase = .failed → ∃ n, t.exitCode = some n ∧ n ≠ 0) ∧
    (s.phase ≠ .exited → t.phase = .exited → t.exitCode = some 0)

/-- Ownership: each part of the state of the block changes only by the transactions that its rules name, at a turn of the
agent that owns them. `mem`
changes by `MEM_WR` in `RUNNING` or `EXITING` and by `LOAD` in `PRE_LOAD`; `io` by `IO_WR`; each queue by its producer's send
and its consumer's receives; each endpoint flag by its consumer's close, and the outbound one by `QUIT`; `cpu` and `host` by
`START`, by their own disconnection fault, and `host` by `QUIT`; the phase and the codes by the lifecycle transactions; and
`refused` by a refusal alone (R18, R23, R24, R27, R28, R31, R136, R143; spec decisions D15, D18). -/
def Obligations.StateChangesOnlyByItsOwner : Prop :=
  ∀ s t : State, step s = .next t →
    (t.mem ≠ s.mem →
      (s.turn = .cpu ∧ inRunExit s = true ∧ ∃ a v, s.nextTxn = some (.memWr a v)) ∨
      (s.turn = .proc ∧ s.phase = .preLoad ∧ ∃ img, s.nextTxn = some (.load img))) ∧
    (t.io ≠ s.io → s.turn = .cpu ∧ inRunExit s = true ∧ ∃ p v, s.nextTxn = some (.ioWr p v)) ∧
    (t.outq ≠ s.outq →
      (s.turn = .cpu ∧ ∃ v, s.nextTxn = some (.ioWr s.cfg.txAddr v)) ∨
      (s.turn = .host ∧ (s.nextTxn = some .outqTryrecv ∨ s.nextTxn = some .outqRecv))) ∧
    (t.inq ≠ s.inq →
      (s.turn = .host ∧ ∃ v, s.nextTxn = some (.inqSend v)) ∨
      (s.turn = .cpu ∧ (s.nextTxn = some .inqTryrecv ∨ s.nextTxn = some .inqRecv))) ∧
    (t.outqConsOpen ≠ s.outqConsOpen →
      s.turn = .host ∧ (s.nextTxn = some .outqClose ∨ s.nextTxn = some .quit)) ∧
    (t.inqConsOpen ≠ s.inqConsOpen → s.turn = .cpu ∧ s.nextTxn = some .inqClose) ∧
    (t.cpu ≠ s.cpu →
      (s.turn = .proc ∧ s.phase = .loaded ∧ s.nextTxn = some (.start true)) ∨
      (s.turn = .cpu ∧ s.outqConsOpen = false ∧ ∃ v, s.nextTxn = some (.ioWr s.cfg.txAddr v))) ∧
    (t.host ≠ s.host →
      (s.turn = .proc ∧ s.phase = .loaded ∧ s.nextTxn = some (.start true)) ∨
      (s.turn = .host ∧ s.nextTxn = some .quit) ∨
      (s.turn = .host ∧ s.inqConsOpen = false ∧ ∃ v, s.nextTxn = some (.inqSend v))) ∧
    (t.phase ≠ s.phase →
      (s.turn = .proc ∧ ((∃ img, s.nextTxn = some (.load img)) ∨ (∃ ok, s.nextTxn = some (.start ok)) ∨
        s.nextTxn = some .procExit)) ∨
      (s.turn = .host ∧ s.nextTxn = some .quit)) ∧
    (t.failCode ≠ s.failCode →
      s.turn = .proc ∧ ((∃ img, s.nextTxn = some (.load img)) ∨ s.nextTxn = some (.start false))) ∧
    (t.exitCode ≠ s.exitCode →
      s.turn = .proc ∧ ((∃ img, s.nextTxn = some (.load img)) ∨ s.nextTxn = some (.start false) ∨
        s.nextTxn = some .procExit)) ∧
    (t.refused ≠ s.refused → ∃ r, t.last = .refused r)

/-- What is recorded stays: a step clears no fault, no refusal, no startup code and no exit code, reopens no endpoint, and
brings no `DONE` host back; and it never changes the configuration (R19, R24, R28, R132, R136; spec decisions D15, D18). -/
def Obligations.RecordsAreNeverCleared : Prop :=
  ∀ s t : State, lifecycleInv s = true → step s = .next t →
    t.cfg = s.cfg ∧
    (s.refused = true → t.refused = true) ∧
    (s.outqConsOpen = false → t.outqConsOpen = false) ∧ (s.inqConsOpen = false → t.inqConsOpen = false) ∧
    (∀ f, s.cpu = .faulted f → t.cpu = .faulted f) ∧ (∀ f, s.host = .faulted f → t.host = .faulted f) ∧
    (s.host = .done → t.host = .done) ∧
    (∀ f, s.failCode = some f → t.failCode = some f) ∧ (∀ n, s.exitCode = some n → t.exitCode = some n)

/-- The only transactions that raise a fault, each with its fault and code (R129, R134; spec decision D18; that a fault
carries its info in the state is log entry 10). -/
def Obligations.OnlyListedTransactionsFault : Prop :=
  ∀ (i : Instr) (s t : State) (f : BlockFault), exec i s = .next t → t.last = .faulted f →
    (i = .load .unreadable ∧ f = .imageUnreadable ∧ f.code = 1) ∨
    (∃ bs, i = .load (.bytes bs) ∧ s.cfg.total < bs.length ∧ f = .imageTooLarge bs.length ∧ f.code = 2) ∨
    (i = .start false ∧ f = .hostSurface ∧ f.code = 3) ∨
    (∃ v, i = .ioWr s.cfg.txAddr v ∧ s.outqConsOpen = false ∧ f = .transportDisconnected .outbound ∧ f.code = 4) ∨
    (∃ v, i = .inqSend v ∧ s.inqConsOpen = false ∧ f = .transportDisconnected .inbound ∧ f.code = 4)

/-- The receive path is inert: what is on `inq` changes nothing of what the CPU engine's four transactions do or return,
and they leave it alone (R26, R86, R98; spec decision D8). -/
def Obligations.InboundQueueIsInvisibleToTheEngine : Prop :=
  ∀ (i : Instr) (s t : State) (q : List Byte), cpuAgentIssues i = true → exec i s = .next t →
    t.inq = s.inq ∧ exec i { s with inq := q } = .next { t with inq := q }

/-- The hidden bytes under synthetic ports are never observed: two states that differ in nothing else take steps to
states that differ in nothing else, responses included (R20, R30). -/
def Obligations.HiddenBytesAreNeverObserved : Prop :=
  ∀ s t s' : State, Memory.wf s.io = true → Memory.wf t.io = true → sameButHidden s t → step s = .next s' →
    ∃ t', step t = .next t' ∧ sameButHidden s' t'

/-- While the agents keep to their alphabets, which they then go on doing, a step never takes a byte off `inq`, never
closes the inbound consumer and never faults the host domain (R26, R97, R101, R104, R122; spec decisions D8, D31). -/
def Obligations.DescribedSystemNeverDrainsInbound : Prop :=
  ∀ s t : State, agentsKeepAlphabet s = true → s.inqConsOpen = true → step s = .next t →
    agentsKeepAlphabet t = true ∧ t.inqConsOpen = true ∧ s.inq <+: t.inq ∧
    (∀ f, t.host = .faulted f → s.host = .faulted f)

/-- The host loop: events told one at a time are those of the loop exactly when they are whole ticks and then a quit, or a
tick cut short by the end of the run or by a faulting send. A quit ends the loop: in no run of the machine, whatever agents
issue, does a HOST transaction take its step after one, but to tear down an endpoint that is torn down already (R113, R120,
R123, R124; spec decisions D15, D20, D21). -/
def Obligations.HostLoopIsTicksThenQuit : Prop :=
  (∀ es : List HostEvent, followsHostLoop es = true ↔ IsHostLoop es) ∧
  ∀ (acts : List Act) (s : State) (pre post : List HostEvent),
    tally (fun _ => hostEvents) acts s = pre ++ (.quit, .returned .none) :: post →
    (∀ e ∈ post, e = (.outqClose, .returned .none) ∨ ∃ r, e.2 = .refused r) ∧
    (after acts s).host = .done ∧ (after acts s).outqConsOpen = false

/-- Progress under the weak fairness of R127. A byte queued outbound is received, after the bytes ahead of it and in their
order, unless the host domain stops being `ACTIVE` first, in every fair run; a `DRAIN` that goes on for ever is among the fair
runs (log entry 15). And an `ACTIVE` CPU domain whose next transaction is one of the engine's takes it, with a response or a
fault, unless the run ends first (R120, R127; spec decision D36). -/
def Obligations.FairRunsMakeProgress : Prop :=
  ∀ (st : Nat → State) (acts : Nat → Act), IsRun st acts → Fair st acts →
    (∀ n ahead b behind, (st n).host = .active → (st n).outq = ahead ++ b :: behind →
      (∃ k, tally (fun _ => receivedOut) (actsFrom acts n k) (st n) = ahead ∧
        receivedOut (actObserved (acts (n + k)) (st (n + k))) = [b]) ∨
      ∃ m, n ≤ m ∧ (st m).host ≠ .active) ∧
    (∀ n r rs i, configValid (st n).cfg = true → (st n).cpu = .active →
      ((st n).phase = .running ∨ (st n).phase = .exiting) → (st n).cpuTxns = r :: rs →
      decode (st n).cfg.addrWidth r = .ok i → cpuAgentIssues i = true →
      ∃ m, n ≤ m ∧ ((st m).phase = .exited ∨
        ((st m).cpuTxns.head? = some r ∧ ∃ resp, actObserved (acts m) (st m) = some (i, resp) ∧
          ((∃ x, resp = .returned x) ∨ ∃ f, resp = .faulted f))))
end

