-- ==== Sys2Proof/Tests/Slice0.lean ====
section
/-!
SUPPORT. Tests of the model's own, on words and values of 95_test_vectors.md (named in each comment) or written out from
30_encoding.md R52 and R56, and for every statement with hypotheses a state and operands that meet them.
-/
namespace Sys2Proof.Tests
open Sys2Proof Sys2Proof.Machine

/-! ### Helpers -/

/-- A small configuration: two firmware bytes and two RAM bytes, the ports of TC1. -/
def small : Config := { Config.tc1 with romSize := 2, ramSize := 2 }

/-- A configuration R8 does not accept: no firmware region. -/
def invalidCfg : Config := { Config.tc1 with romSize := 0 }

/-- A fresh state with the image of 95_test_vectors.md section 2.1, after `LOAD` and `START ok`. -/
def fresh : State :=
  { State.reset with
    mem := [(0, 0x3E), (1, 0x41), (2, 0xD3), (3, 0xC0)], phase := .running, cpu := .active, host := .active }

/-- `fresh` after a quit. -/
def quitted : State := { fresh with host := .done, outqConsOpen := false, phase := .exiting }

/-- `fresh` with its next turn and that agent's first request fixed. -/
def atTurn (a : Agent) (w : TxnWord) (s : State) : State :=
  { s.setTxns a [⟨w, .bytes []⟩] with sched := [a] }

/-- The outcome is a next state with the property. -/
def nextHas (r : Result) (p : State → Bool) : Bool :=
  match r with
  | .next t => p t
  | _       => false

/-- One step that runs a table word. -/
def run (s : State) (w : Nat) : Result := step (s.withFetchWord 40 w)

/-- A table word is decoded, and run as the first transaction after reset: not an idle turn, not refused (log
entry 12). -/
def runsAfterReset (w : Nat) : Bool :=
  (decodeTableWord 40 w).isSome && nextHas (run State.reset w) (fun t => t.last != .idle && !t.refused)

/-- Decoding in the width of TC1, with no image. -/
def dec (w : TxnWord) : Except DecodeError Instr := decode .w24 ⟨w, .bytes []⟩

/-! ### Well-formed transactions -/

/-- The one check of `wellFormed` refuses an address of 2^16 under a 16-bit bus, in both forms that have one. -/
theorem test_wellFormed_refuses_wide_read : Instr.wellFormed .w16 (.memRd 0x010000) = false := by decide
theorem test_wellFormed_refuses_wide_write : Instr.wellFormed .w16 (.memWr 0x010000 0) = false := by decide
theorem test_wellFormed_accepts_top :
    Instr.wellFormed .w16 (.memRd 0x00FFFF) = true ∧ Instr.wellFormed .w24 (.memWr 0xFFFFFF 0) = true := by decide

/-! ### Decoding, one word for each constructor, and the invalid words E1 to E8 -/

theorem test_decode_memRd : dec 0x0000000300 = .ok (.memRd 0x000003) := by decide        -- M2
theorem test_decode_memWr : dec 0x1004000055 = .ok (.memWr 0x040000 0x55) := by decide   -- M9
theorem test_decode_ioRd : dec 0x200000A200 = .ok (.ioRd 0x00A2) := by decide            -- I1
theorem test_decode_ioWr : dec 0x300012345A = .ok (.ioWr 0x1234 0x5A) := by decide       -- I9
theorem test_decode_outqTryrecv : dec 0x4000000000 = .ok .outqTryrecv := by decide       -- Q1
theorem test_decode_outqRecv : dec 0x5000000000 = .ok .outqRecv := by decide             -- Q4
theorem test_decode_inqSend : dec 0x6000000006 = .ok (.inqSend 0x06) := by decide        -- Q6
theorem test_decode_inqTryrecv : dec 0x7000000000 = .ok .inqTryrecv := by decide         -- Q8
theorem test_decode_inqRecv : dec 0x8000000000 = .ok .inqRecv := by decide               -- Q10
theorem test_decode_outqClose : dec 0x9000000000 = .ok .outqClose := by decide           -- Q11
theorem test_decode_inqClose : dec 0xA000000000 = .ok .inqClose := by decide             -- Q14
theorem test_decode_load :
    decode .w24 ⟨0xB000000000, .bytes [0x3E]⟩ = .ok (.load (.bytes [0x3E])) ∧
    decode .w24 ⟨0xB000000000, .unreadable⟩ = .ok (.load .unreadable) := by decide       -- L1, L4
theorem test_decode_start :
    dec 0xC000000001 = .ok (.start true) ∧ dec 0xC000000000 = .ok (.start false) := by decide   -- L7, L8
theorem test_decode_quit : dec 0xD000000000 = .ok .quit := by decide                     -- L10
theorem test_decode_procExit : dec 0xE000000000 = .ok .procExit := by decide             -- L11

theorem test_invalid_reserved : dec 0xF000000000 = .error .reservedOp := by decide       -- E1
theorem test_invalid_z : dec 0x0100000000 = .error .zField := by decide                  -- E2
theorem test_invalid_read_data : dec 0x0000000001 = .error .mustBeZero := by decide      -- E3
theorem test_invalid_port_high :
    dec 0x2001000000 = .error .mustBeZero ∧ dec 0x300100C041 = .error .mustBeZero := by decide   -- E4, E5
theorem test_invalid_unused_address : dec 0x4000000100 = .error .mustBeZero := by decide -- E6
theorem test_invalid_start_data : dec 0xC000000002 = .error .mustBeZero := by decide     -- E7
theorem test_width_of_address :
    decode .w16 ⟨0x0001000000, .bytes []⟩ = .error .addressTooWide ∧
    dec 0x0001000000 = .ok (.memRd 0x010000) := by decide                                -- E8, E9

theorem test_encode_words :
    (encode (.memWr 0x040000 0x55)).word = 0x1004000055 ∧ (encode (.ioWr 0x00C0 0x41)).word = 0x300000C041 ∧
    (encode (.inqSend 0xFF)).word = 0x60000000FF ∧ (encode (.start true)).word = 0xC000000001 := by decide

/-! ### One step of each transaction, run as a table word -/

theorem test_memRd_last_backed_and_open_bus :                                            -- M6, M7
    nextHas (run fresh 0x000BFFFF00) (fun t => t.last == .returned (.byte 0x00)) = true ∧
    nextHas (run fresh 0x000C000000) (fun t => t.last == .returned (.byte 0xFF)) = true := by decide
theorem test_memWr_into_rom_and_out_of_range :                                           -- M11, M13
    nextHas (run fresh 0x1000000000) (fun t => t.mem == [(1, 0x41), (2, 0xD3), (3, 0xC0)]) = true ∧
    nextHas (run fresh 0x100C000077) (fun t => t.mem == fresh.mem && t.last == .returned .none) = true := by decide
theorem test_ioRd_lsr_and_tx :                                                           -- I2, I11
    nextHas (run fresh 0x200000C500) (fun t => t.last == .returned (.byte 0x40)) = true ∧
    nextHas (run { fresh with io := [(0xC0, 0x41)] } 0x200000C000)
      (fun t => t.last == .returned (.byte 0x41)) = true := by decide
theorem test_ioWr_transmits :                                                            -- I10, I12
    nextHas (run fresh 0x300000C041) (fun t => t.io == [(0xC0, 0x41)] && t.outq == [0x41]) = true ∧
    nextHas (run fresh 0x300000C141) (fun t => t.io == [(0xC1, 0x41)] && t.outq == []) = true := by decide
theorem test_ioWr_faults_after_close :                                                   -- I14
    nextHas (run { fresh with outqConsOpen := false } 0x300000C041) (fun t =>
      t.io == [(0xC0, 0x41)] && t.outq == [] && t.cpu == .faulted (.transportDisconnected .outbound)) = true := by
  decide
theorem test_outqTryrecv :                                                               -- Q1, Q2
    nextHas (run fresh 0x4000000000) (fun t => t.last == .returned .empty) = true ∧
    nextHas (run { fresh with outq := [0x48, 0x69] } 0x4000000000)
      (fun t => t.last == .returned (.byte 0x48) && t.outq == [0x69]) = true := by decide
theorem test_outqRecv_holds_then_receives :                                              -- Q4, Q5
    nextHas (run fresh 0x5000000000) (fun t => t.last == .held && t.hostTxns.length == 1) = true ∧
    nextHas (run { fresh with outq := [0x21] } 0x5000000000)
      (fun t => t.last == .returned (.byte 0x21) && t.outq == [] && t.hostTxns == []) = true := by decide
theorem test_inqSend :                                                                   -- Q7, Q15
    nextHas (run { fresh with inq := [0x06] } 0x60000000FF) (fun t => t.inq == [0x06, 0xFF]) = true ∧
    nextHas (run { fresh with inqConsOpen := false } 0x6000000006)
      (fun t => t.host == .faulted (.transportDisconnected .inbound) && t.inq == []) = true := by decide
theorem test_inqTryrecv :                                                                -- Q8, Q9
    nextHas (run { fresh with inq := [0x06, 0xFF] } 0x7000000000)
      (fun t => t.last == .returned (.byte 0x06) && t.inq == [0xFF]) = true ∧
    nextHas (run fresh 0x7000000000) (fun t => t.last == .returned .empty) = true := by decide
theorem test_inqRecv_holds : nextHas (run fresh 0x8000000000) (fun t => t.last == .held) = true := by decide   -- Q10
theorem test_outqClose_keeps_bytes :                                                     -- Q11, Q12
    nextHas (run { fresh with outq := [0x41] } 0x9000000000)
      (fun t => !t.outqConsOpen && t.outq == [0x41] && t.last == .returned .none) = true ∧
    nextHas (run { fresh with outqConsOpen := false } 0x4000000000)
      (fun t => t.refused && t.last == .refused .closedEndpoint) = true := by decide
theorem test_inqClose : nextHas (run fresh 0xA000000000) (fun t => !t.inqConsOpen) = true := by decide   -- Q14
theorem test_load_copies :                                                               -- L1
    nextHas (step (placeFirst ⟨0xB000000000, .bytes [0x3E, 0x41, 0xD3, 0xC0]⟩ State.reset))
      (fun t => t.mem == fresh.mem && t.phase == .loaded) = true := by decide
theorem test_load_failures :                                                             -- L4, P8 in `small`
    nextHas (step (placeFirst ⟨0xB000000000, .unreadable⟩ State.reset))
      (fun t => t.phase == .failed && t.exitCode == some 1) = true ∧
    nextHas (step (placeFirst ⟨0xB000000000, .bytes [1, 1, 1, 1, 1]⟩ (State.resetWith small)))
      (fun t => t.mem == [] && t.failCode == some (.imageTooLarge 5) && t.exitCode == some 2) = true := by decide
theorem test_start :                                                                     -- L7, L8
    nextHas (run { State.reset with phase := .loaded } 0xC000000001)
      (fun t => t.phase == .running && t.cpu == .active && t.host == .active) = true ∧
    nextHas (run { State.reset with phase := .loaded } 0xC000000000)
      (fun t => t.phase == .failed && t.exitCode == some 3 && t.cpu == .idle) = true := by decide
theorem test_quit :                                                                      -- L10
    nextHas (run { fresh with outq := [0x41] } 0xD000000000) (fun t =>
      t.host == .done && !t.outqConsOpen && t.phase == .exiting && t.outq == [0x41] && t.cpu == .active) = true := by
  decide
theorem test_procExit :                                                                  -- L11
    nextHas (run quitted 0xE000000000) (fun t => t.phase == .exited && t.exitCode == some 0) = true := by decide
theorem test_wrong_issuer :                                                              -- Q16
    nextHas (step (atTurn .host 0x0000000000 fresh)) (fun t => t.refused && t.last == .refused .notOwner) = true := by
  decide
theorem test_hold_before_load :                                                          -- L9
    nextHas (step (atTurn .proc 0xC000000001 State.reset))
      (fun t => t.phase == .preLoad && t.last == .held && t.procTxns.length == 1) = true := by decide
theorem test_cpu_rows_run_after_reset :
    [0x0000000000, 0x1000000000, 0x2000000000, 0x3000000000].all runsAfterReset = true := by decide
theorem test_queue_rows_run_after_reset :
    [0x4000000000, 0x5000000000, 0x6000000000, 0x7000000000, 0x8000000000].all runsAfterReset = true := by decide
theorem test_close_and_process_rows_run_after_reset :
    [0x9000000000, 0xA000000000, 0xB000000000, 0xC000000000, 0xD000000000, 0xE000000000].all runsAfterReset = true := by
  decide
theorem test_reserved_row_has_no_instruction : decodeTableWord 40 0xF000000000 = none := by decide

/-! ### The hypotheses of the statements are met

One theorem for each statement of Obligations.lean that has hypotheses, in its order. -/

theorem witness_DecodeInvertsEncode :
    Instr.wellFormed .w24 (.memRd 0xFFFFFF) = true ∧ Instr.wellFormed .w16 (.memWr 0x00FFFF 0xFF) = true := by decide

theorem witness_EncodeInvertsDecode :
    decode .w16 ⟨0x0000FFFF00, .bytes []⟩ = .ok (.memRd 0x00FFFF) ∧
    decode .w24 ⟨0xB000000000, .unreadable⟩ = .ok (.load .unreadable) := by decide

/-- A word of the table in both widths, and one that fits the wide one alone. -/
theorem witness_DecodedWordsAreTableWords :
    dec 0x3000FFFFFF = .ok (.ioWr 0xFFFF 0xFF) ∧ (Instr.ioWr 0xFFFF 0xFF).row ∈ opcodeTable ∧
    decode .w16 ⟨0x0000FFFF00, .bytes []⟩ = .ok (.memRd 0x00FFFF) ∧
    (Instr.memRd 0).row.holds 0x0001000000 = true ∧ decode .w16 ⟨0x0001000000, .bytes []⟩ = .error .addressTooWide ∧
    dec 0x0001000000 = .ok (.memRd 0x010000) := by decide

/-- A transaction that responds. -/
theorem witness_StepRunsDecodedTransaction : let s := atTurn .cpu 0x0000000300 fresh
    configValid s.cfg = true ∧ s.phase ≠ .exited ∧ s.phase ≠ .failed ∧ silenced s s.turn = false ∧
    s.txns s.turn = ⟨0x0000000300, .bytes []⟩ :: [] ∧ decode s.cfg.addrWidth ⟨0x0000000300, .bytes []⟩ = .ok (.memRd 3) ∧
    issuer (.memRd 3) = s.turn := by decide

/-- A transaction that holds. -/
theorem witness_StepRunsDecodedTransaction_held : let s := atTurn .cpu 0x8000000000 fresh
    configValid s.cfg = true ∧ s.phase ≠ .exited ∧ s.phase ≠ .failed ∧ silenced s s.turn = false ∧
    s.txns s.turn = ⟨0x8000000000, .bytes []⟩ :: [] ∧ decode s.cfg.addrWidth ⟨0x8000000000, .bytes []⟩ = .ok .inqRecv ∧
    issuer .inqRecv = s.turn := by decide

theorem witness_InvalidWordIsRefused : let s := atTurn .proc 0xF000000000 State.reset
    configValid s.cfg = true ∧ s.phase ≠ .exited ∧ s.phase ≠ .failed ∧ silenced s s.turn = false ∧
    s.txns s.turn = ⟨0xF000000000, .bytes []⟩ :: [] ∧
    decode s.cfg.addrWidth ⟨0xF000000000, .bytes []⟩ = .error .reservedOp := by decide

theorem witness_WrongIssuerIsRefused : let s := atTurn .host 0x0000000000 fresh
    configValid s.cfg = true ∧ s.phase ≠ .exited ∧ s.phase ≠ .failed ∧ silenced s s.turn = false ∧
    s.txns s.turn = ⟨0x0000000000, .bytes []⟩ :: [] ∧
    decode s.cfg.addrWidth ⟨0x0000000000, .bytes []⟩ = .ok (.memRd 0) ∧ issuer (.memRd 0) ≠ s.turn := by decide

theorem witness_AcceptedConfigurations :
    configValid Config.tc1 = true ∧ configValid small = true ∧
    configValid { small with addrWidth := .w16, ramSize := 0xFFFE } = true ∧
    configValid { small with addrWidth := .w16, ramSize := 0xFFFF } = false ∧
    configValid { small with lsrAddr := small.txAddr } = false ∧ configValid { small with rxMode := .wired } = false := by
  decide

theorem witness_RefusedConfigurationHasNoEffect : configValid (State.resetWith invalidCfg).cfg = false := by decide

theorem witness_TerminalPhasesHaveNoStep :
    configValid fresh.cfg = true ∧ ({ fresh with phase := .exited } : State).phase = .exited ∧
    ({ fresh with phase := .failed } : State).phase = .failed ∧ fresh.phase ≠ .exited ∧ fresh.phase ≠ .failed := by decide

theorem witness_FaultedDomainIssuesNothing :
    (∃ s : State, configValid s.cfg = true ∧ s.phase ≠ .exited ∧ s.phase ≠ .failed ∧ s.turn = .cpu ∧
      ∃ f, s.cpu = .faulted f) ∧
    (∃ s : State, configValid s.cfg = true ∧ s.phase ≠ .exited ∧ s.phase ≠ .failed ∧ s.turn = .host ∧
      ∃ f, s.host = .faulted f) :=
  ⟨⟨{ quitted with cpu := .faulted (.transportDisconnected .outbound), sched := [.cpu] }, by decide, by decide, by decide,
      rfl, _, rfl⟩,
    ⟨{ fresh with host := .faulted (.transportDisconnected .inbound), sched := [.host] }, by decide, by decide, by decide,
      rfl, _, rfl⟩⟩

/-- Both phases; the last backed address and the first beyond. -/
theorem witness_MemRdReturnsByte :
    (fresh.phase = .running ∨ fresh.phase = .exiting) ∧ fresh.cpu = .active ∧
    (quitted.phase = .running ∨ quitted.phase = .exiting) ∧ quitted.cpu = .active ∧
    (0x0BFFFF : MemAddr).toNat < fresh.cfg.total ∧ ¬ (0x0C0000 : MemAddr).toNat < fresh.cfg.total := by decide

theorem witness_MemWrStoresByte :
    (fresh.phase = .running ∨ fresh.phase = .exiting) ∧ fresh.cpu = .active ∧ Memory.wf fresh.mem = true ∧
    (0x0BFFFF : MemAddr).toNat < fresh.cfg.total ∧ fresh.cfg.total ≤ (0x0C0000 : MemAddr).toNat := by decide

theorem witness_ReadAfterWrite :
    (fresh.phase = .running ∨ fresh.phase = .exiting) ∧ fresh.cpu = .active ∧ Memory.wf fresh.mem = true ∧
    (0x0BFFFF : MemAddr).toNat < fresh.cfg.total ∧
    ∀ w, Instr.memWr 0x0BFFFF w ∉ [Instr.memWr 0x000000 0x5A, .quit, .procExit] := by
  refine ⟨by decide, by decide, by decide, by decide, ?_⟩
  intro w
  simp

theorem witness_OutOfRangeNeverAliases :
    (0x0BFFFF : MemAddr).toNat < fresh.cfg.total ∧ fresh.cfg.total ≤ (0x0C0000 : MemAddr).toNat := by decide

theorem witness_OutOfRangeIsNoFault :
    (fresh.phase = .running ∨ fresh.phase = .exiting) ∧ fresh.cpu = .active ∧
    fresh.cfg.total ≤ (0x0C0000 : MemAddr).toNat ∧ fresh.cfg.total ≤ (0xFFFFFF : MemAddr).toNat ∧
    (let s := { fresh with mem := [(0x0BFFFF, 0xFF)] }
     (0x0BFFFF : MemAddr).toNat < s.cfg.total ∧ Memory.get s.mem (0x0BFFFF : MemAddr).toNat = s.cfg.openBus) := by
  decide

/-- One port of each clause: CTS, LSR, both timer ports, the transmit port, a stored one. -/
theorem witness_IoRdReturnsByte :
    (fresh.phase = .running ∨ fresh.phase = .exiting) ∧ fresh.cpu = .active ∧
    [(0x00A2 : Port), 0x00C5, 0x0081, 0x0082, 0x00C0, 0xFFFF].map (portClass fresh.cfg) =
      [.synthetic, .synthetic, .synthetic, .synthetic, .transmitData, .stored] := by decide

theorem witness_IoWrStoresAndTransmits :
    (fresh.phase = .running ∨ fresh.phase = .exiting) ∧ fresh.cpu = .active ∧ Memory.wf fresh.io = true ∧
    (0x00C0 : Port) = fresh.cfg.txAddr ∧ fresh.outqConsOpen = true ∧ (0x00C1 : Port) ≠ fresh.cfg.txAddr := by decide

theorem witness_SendToClosedEndpointFaults :
    (quitted.phase = .running ∨ quitted.phase = .exiting) ∧ quitted.cpu = .active ∧ quitted.outqConsOpen = false ∧
    (fresh.phase = .running ∨ fresh.phase = .exiting) ∧ fresh.host = .active ∧
    ({ fresh with inqConsOpen := false } : State).inqConsOpen = false := by decide

theorem witness_SyntheticPortsIgnoreWrites :
    (fresh.phase = .running ∨ fresh.phase = .exiting) ∧ fresh.cpu = .active ∧ configValid fresh.cfg = true ∧
    ((0x00C5 : Port), (0x40 : Byte)) ∈ [(fresh.cfg.ctsAddr, fresh.cfg.ctsVal), (fresh.cfg.lsrAddr, fresh.cfg.lsrVal),
      (fresh.cfg.tmrLoAddr, 0x00), (fresh.cfg.tmrHiAddr, 0x00)] := by decide

theorem witness_TimerPortsReadZero :
    configValid fresh.cfg = true ∧ (0x0082 : Port) = fresh.cfg.tmrHiAddr ∧
    cpuEnabled (runTxns [.ioWr 0x0081 0x12, .quit] fresh) = true := by decide

theorem witness_StoredPortsReadBack :
    (∀ w, Instr.ioWr 0x00C0 w ∉ [Instr.ioWr 0x1234 0x11, .ioRd 0x00C0]) ∧
    (fresh.phase = .running ∨ fresh.phase = .exiting) ∧ fresh.cpu = .active ∧ Memory.wf fresh.io = true ∧
    isSynthetic fresh.cfg 0x00C0 = false ∧ isSynthetic Config.tc1 0xFFFF = false := by
  refine ⟨?_, by decide⟩
  intro w
  simp

theorem witness_TransmitKeepsWriteOrder :
    (fresh.phase = .running ∨ fresh.phase = .exiting) ∧ fresh.cpu = .active ∧ fresh.outqConsOpen = true ∧
    ∀ i ∈ [Instr.ioWr 0x00C0 0x48, .memWr 0x040000 0x55, .ioWr 0x1234 0x5A, .ioWr 0x00C0 0x69],
      cpuAgentIssues i = true := by decide

theorem witness_OutboundReceivesComplete :
    (fresh.phase = .running ∨ fresh.phase = .exiting) ∧ fresh.host = .active ∧ fresh.outqConsOpen = true ∧
    fresh.outq = [] ∧ ({ fresh with outq := [0x48, 0x69] } : State).outq = 0x48 :: [0x69] := by decide

theorem witness_InboundReceivesComplete :
    (fresh.phase = .running ∨ fresh.phase = .exiting) ∧ fresh.cpu = .active ∧ fresh.inqConsOpen = true ∧
    fresh.inq = [] ∧ ({ fresh with inq := [0x06] } : State).inq = 0x06 :: [] := by decide

theorem witness_InqSendEnqueues :
    (fresh.phase = .running ∨ fresh.phase = .exiting) ∧ fresh.host = .active ∧ fresh.inqConsOpen = true := by decide

theorem witness_ClosesComplete :
    (fresh.phase = .running ∨ fresh.phase = .exiting) ∧ (fresh.host = .active ∨ fresh.host = .done) ∧
    fresh.cpu = .active ∧ (quitted.phase = .running ∨ quitted.phase = .exiting) ∧
    (quitted.host = .active ∨ quitted.host = .done) := by decide

theorem witness_ReceiveAtClosedEndpointIsRefused :
    quitted.phase ≠ .exited ∧ quitted.phase ≠ .failed ∧ fresh.phase ≠ .exited ∧ fresh.phase ≠ .failed ∧
    quitted.outqConsOpen = false ∧ Instr.outqTryrecv ∈ [Instr.outqTryrecv, Instr.outqRecv] ∧
    ({ fresh with inqConsOpen := false } : State).inqConsOpen = false ∧
    Instr.inqRecv ∈ [Instr.inqTryrecv, Instr.inqRecv] := by decide

theorem witness_BlockingReceiveHoldsUntilEnqueue :
    (fresh.phase = .running ∨ fresh.phase = .exiting) ∧ fresh.host = .active ∧ fresh.outqConsOpen = true ∧
    fresh.outq = [] ∧ fresh.cpu = .active ∧ fresh.inqConsOpen = true ∧ fresh.inq = [] ∧
    nextHas (exec (.ioWr 0x00C0 0x21) fresh) (fun t => t.outq != [] && t.last == .returned .none) = true ∧
    nextHas (exec (.inqSend 0x21) fresh) (fun t => t.inq != [] && t.last == .returned .none) = true := by decide

theorem witness_QueuesAreIndependent :
    Instr.quit ∈ [Instr.outqTryrecv, .outqRecv, .outqClose, .quit] ∧ (∃ t, exec .quit fresh = .next t) ∧
    (∃ t, exec (.ioWr 0x00C0 0x41) fresh = .next t) ∧
    Instr.inqClose ∈ [Instr.inqTryrecv, .inqRecv, .inqClose] ∧ (∃ t, exec .inqClose fresh = .next t) ∧
    ∃ t, exec (.inqSend 0x41) fresh = .next t :=
  ⟨by decide, ⟨_, rfl⟩, ⟨_, rfl⟩, by decide, ⟨_, rfl⟩, ⟨_, rfl⟩⟩

/-- A drain of two bytes, and a tick around it with a send before, inside and after. -/
theorem witness_DrainTakesTheWholeQueue : let s := { fresh with outq := [0x48, 0x69] }
    (s.phase = .running ∨ s.phase = .exiting) ∧ s.host = .active ∧ s.outqConsOpen = true ∧ s.outq.length < 3 ∧
    ([(.inqSend 0x06, .returned .none), (.outqTryrecv, .returned (.byte 0x48)), (.inqSend 0x06, .returned .none),
        (.outqTryrecv, .returned (.byte 0x69)), (.outqTryrecv, .returned .empty),
        (.inqSend 0x06, .returned .none)] : List HostEvent).filter (fun e => hostEventKind e != .send) =
      (drain 3 s).1.map (fun r => (.outqTryrecv, .returned r)) := by
  decide

/-! #### A run in which the host polls for ever -/

/-- The host issues a poll, its turn is fixed, the machine steps, and so on. -/
def pollingActs (n : Nat) : Act :=
  if n % 3 = 0 then .issue .host ⟨0x4000000000, .bytes []⟩
  else if n % 3 = 1 then .schedule .host
  else .step

/-- The states of that run, from `fresh` with one byte queued. -/
def pollingRun : Nat → State
  | 0     => { fresh with outq := [0x21] }
  | n + 1 => act (pollingActs n) (pollingRun n)

/-- The state before a poll of the run: the poll issued, the turn fixed. -/
def pollingState (q : List Byte) (l : TxnResult) : State :=
  { fresh with outq := q, last := l, hostTxns := [⟨0x4000000000, .bytes []⟩], sched := [.host] }

/-- The poll is the next transaction there. -/
theorem pollingState_fetched (q : List Byte) (l : TxnResult) : (pollingState q l).fetched = .run .outqTryrecv :=
  fetched_of_decode (r := ⟨0x4000000000, .bytes []⟩) (rs := []) rfl rfl
    (by show dec 0x4000000000 = _; decide) rfl

theorem pollingState_valid (q : List Byte) (l : TxnResult) : configValid (pollingState q l).cfg = true := by
  show configValid Config.tc1 = true
  decide

theorem pollingState_step (q : List Byte) (l : TxnResult) :
    ∃ l', act .step (pollingState q l) = { fresh with outq := q.tail, last := l' } := by
  cases q with
  | nil =>
    refine ⟨.returned .empty, ?_⟩
    rw [act, step_run (u := { (pollingState [] l).takeTurn with last := .returned .empty }) (pollingState_valid [] l) rfl
      (pollingState_fetched [] l) rfl]
    rfl
  | cons b q =>
    refine ⟨.returned (.byte b), ?_⟩
    rw [act, step_run (u := { (pollingState (b :: q) l).takeTurn with outq := q, last := .returned (.byte b) })
      (pollingState_valid (b :: q) l) rfl (pollingState_fetched (b :: q) l) rfl]
    rfl

/-- A poll of an empty queue ends a `DRAIN`. -/
theorem pollingState_drained (l : TxnResult) :
    hostEvents (actObserved .step (pollingState [] l)) = [(.outqTryrecv, .returned .empty)] := by
  have hn : (pollingState [] l).nextTxn = some .outqTryrecv := by
    have he : ended (pollingState [] l) = none := rfl
    simp [State.nextTxn, pollingState_valid, he, pollingState_fetched]
  rw [actObserved, observed, hn, step_run (u := { (pollingState [] l).takeTurn with last := .returned .empty })
    (pollingState_valid [] l) rfl (pollingState_fetched [] l) rfl]
  rfl

theorem pollingActs_issue (k : Nat) : pollingActs (3 * k) = .issue .host ⟨0x4000000000, .bytes []⟩ := by
  simp [pollingActs]

theorem pollingActs_schedule (k : Nat) : pollingActs (3 * k + 1) = .schedule .host := by
  simp only [pollingActs]
  rw [if_neg (by omega), if_pos (by omega)]

theorem pollingActs_step (k : Nat) : pollingActs (3 * k + 2) = .step := by
  simp only [pollingActs]
  rw [if_neg (by omega), if_neg (by omega)]

/-- What is queued before the `k`-th poll. -/
def pollingQueue (k : Nat) : List Byte := if k = 0 then [0x21] else []

/-- Between polls the state is `fresh`, but for the queue and the last response. -/
theorem pollingRun_idle (k : Nat) : ∃ l, pollingRun (3 * k) = { fresh with outq := pollingQueue k, last := l } := by
  induction k with
  | zero => exact ⟨.idle, rfl⟩
  | succ k ih =>
    obtain ⟨l, h⟩ := ih
    have hrun : pollingRun (3 * (k + 1)) = act .step (pollingState (pollingQueue k) l) := by
      rw [show 3 * (k + 1) = 3 * k + 2 + 1 from rfl, pollingRun, pollingActs_step, pollingRun, pollingActs_schedule,
        pollingRun, pollingActs_issue, h]
      rfl
    have hq : pollingQueue (k + 1) = (pollingQueue k).tail := by
      unfold pollingQueue
      cases k <;> rfl
    rw [hrun, hq]
    exact pollingState_step _ l

theorem pollingRun_poll (k : Nat) : ∃ l, pollingRun (3 * k + 2) = pollingState (pollingQueue k) l := by
  obtain ⟨l, h⟩ := pollingRun_idle k
  refine ⟨l, ?_⟩
  rw [pollingRun, pollingActs_schedule, pollingRun, pollingActs_issue, h]
  rfl

/-- The outbound consumer stays open in every state of the run. -/
theorem pollingRun_open (n : Nat) : (pollingRun n).outqConsOpen = true := by
  obtain ⟨k, hk | hk | hk⟩ : ∃ k, n = 3 * k ∨ n = 3 * k + 1 ∨ n = 3 * k + 2 := ⟨n / 3, by omega⟩
  · obtain ⟨l, h⟩ := pollingRun_idle k
    rw [hk, h]
    rfl
  · obtain ⟨l, h⟩ := pollingRun_idle k
    rw [hk, pollingRun, pollingActs_issue, h]
    rfl
  · obtain ⟨l, h⟩ := pollingRun_poll k
    rw [hk, h]
    rfl

theorem witness_PollingHostReceivesEveryByte :
    IsRun pollingRun pollingActs ∧ HostKeepsPolling pollingRun pollingActs ∧
    (∀ n, (pollingRun n).outqConsOpen = true) ∧ (pollingRun 0).outq = [] ++ 0x21 :: [] := by
  refine ⟨fun _ => rfl, fun n => ⟨3 * n + 2, by omega, pollingActs_step n, ?_, ?_⟩, pollingRun_open, rfl⟩
  all_goals
    obtain ⟨l, h⟩ := pollingRun_poll n
    rw [h]
  · have he : ended (pollingState (pollingQueue n) l) = none := rfl
    simp [State.nextTxn, pollingState_valid, he, pollingState_fetched]
  · rfl

/-- The run is weakly fair, and each of its ticks ends. -/
theorem pollingRun_fair : Fair pollingRun pollingActs where
  taken := by
    intro a i n hready
    obtain ⟨l, h⟩ := pollingRun_poll n
    refine ⟨3 * n + 2, by omega, pollingActs_step n, ?_⟩
    have hr := hready (3 * n + 2) (by omega)
    rw [h] at hr ⊢
    cases a with
    | cpu => rw [readyTxn_none (.inr rfl)] at hr; cases hr
    | host => rfl
    | proc => rw [readyTxn_none (.inl rfl)] at hr; cases hr
  iterates := by
    intro n _
    obtain ⟨l, h⟩ := pollingRun_poll (n + 1)
    refine .inr (.inl ⟨3 * (n + 1) + 2, by omega, ?_⟩)
    rw [pollingActs_step, h]
    exact pollingState_drained l

/-! #### A fair run after a quit, with a transaction of the CPU engine -/

/-- The CPU's turn is fixed, the machine steps, and no further step comes. -/
def cpuActs (n : Nat) : Act :=
  if n = 0 then .schedule .cpu else if n = 1 then .step else .schedule .proc

/-- The states of that run: the host domain is done, and the CPU engine has issued `MEM_RD 0x000003`. -/
def cpuRun : Nat → State
  | 0     => { quitted with cpuTxns := [⟨0x0000000300, .bytes []⟩] }
  | n + 1 => act (cpuActs n) (cpuRun n)

theorem cpuRun_done (n : Nat) : (cpuRun (n + 2)).cpuTxns = [] ∧ (cpuRun (n + 2)).host = .done := by
  induction n with
  | zero => decide
  | succ n ih =>
    have h : cpuRun (n + 1 + 2) = (cpuRun (n + 2)).schedule .proc := by
      rw [show n + 1 + 2 = n + 2 + 1 from rfl, cpuRun, cpuActs, if_neg (by omega), if_neg (by omega)]
      rfl
    rw [h]
    exact ih

theorem cpuRun_fair : Fair cpuRun cpuActs where
  taken := by
    intro a i n hready
    have hr := hready (n + 2) (by omega)
    obtain ⟨hc, hh⟩ := cpuRun_done n
    have hnone : (cpuRun (n + 2)).readyTxn a = none := by
      cases a with
      | cpu => exact readyTxn_none (.inr hc)
      | host => exact readyTxn_none (.inl (by simp [State.domainActive, hh]))
      | proc => exact readyTxn_none (.inl rfl)
    rw [hnone] at hr
    cases hr
  iterates := by
    intro n h
    match n with
    | 0     => exact absurd h (by decide)
    | 1     => exact absurd h (by decide)
    | n + 2 => rw [(cpuRun_done n).2] at h; cases h

/-! #### Lifecycle, frames and the whole machine -/

/-- An image of exactly `TOTAL` bytes, with a first, a last and a next address. -/
theorem witness_LoadCopiesTheImage : let s := State.resetWith small
    s.phase = .preLoad ∧ Memory.wf s.mem = true ∧ [(1 : Byte), 2, 3, 4].length ≤ s.cfg.total ∧
    3 < [(1 : Byte), 2, 3, 4].length ∧ [(1 : Byte), 2, 3, 4].length ≤ 4 := by decide

theorem witness_StateAfterLoad : [(1 : Byte), 2, 3, 4].length ≤ small.total ∧ ([] : List Byte).length ≤ small.total := by
  decide

theorem witness_LoadFailuresEndTheRun : let s := State.resetWith small
    s.phase = .preLoad ∧ s.cfg.total < [(1 : Byte), 2, 3, 4, 5].length := by decide

theorem witness_StartStartsBothDomainsOrFails : ({ State.reset with phase := .loaded } : State).phase = .loaded := by
  decide

theorem witness_QuitShutsTheHostDown : fresh.phase = .running ∧ fresh.host = .active := by decide

theorem witness_ProcExitEndsTheRun : quitted.phase = .exiting := by decide

theorem witness_TransmitAfterQuitFaults :
    fresh.phase = .running ∧ fresh.host = .active ∧
    Instr.procExit ∉ [Instr.memWr 0x040000 0x01, .outqTryrecv, .outqClose] ∧
    (runTxns [.memWr 0x040000 0x01, .outqTryrecv, .outqClose] (runTxn .quit fresh)).cpu = .active := by decide

/-- `quitted` after the process's orderly end. -/
def ended0 : State := { quitted with phase := .exited, exitCode := some 0 }

/-- One transaction of each row, in a state where its endpoint is open and it is not enabled: the reset state, and the
loaded state for `LOAD`; and a receive at a closed endpoint in a terminal phase. -/
theorem witness_NotEnabledHolds :
    (∀ i ∈ oneOfEach, i = .load .unreadable ∨ (endpointOpen i State.reset = true ∧ enabled i State.reset = false)) ∧
    endpointOpen (.load .unreadable) { State.reset with phase := .loaded } = true ∧
    ({ State.reset with phase := .loaded } : State).phase ≠ .preLoad ∧
    endpointOpen .outqTryrecv ended0 = false ∧ ended0.phase = .exited ∧
    ¬ ((ended0.phase = .running ∨ ended0.phase = .exiting) ∧ ended0.host = .active) ∧
    ¬ ((State.reset.phase = .running ∨ State.reset.phase = .exiting) ∧ State.reset.cpu = .active) ∧
    ¬ ((State.reset.phase = .running ∨ State.reset.phase = .exiting) ∧ State.reset.host = .active) := by decide

theorem witness_ReadsChangeNothing :
    (∃ t, exec (.memRd 0) fresh = .next t) ∧ ∃ t, exec (.ioRd 0x00C5) fresh = .next t := ⟨⟨_, rfl⟩, ⟨_, rfl⟩⟩

theorem witness_WriteFrames :
    Memory.wf fresh.mem = true ∧ (∃ t, exec (.memWr 0x0BFFFF 1) fresh = .next t) ∧ (0x0C0000 : MemAddr) ≠ 0x0BFFFF ∧
    Memory.wf fresh.io = true ∧ (∃ t, exec (.ioWr 0x00C1 1) fresh = .next t) ∧ (0x00C1 : Port) ≠ fresh.cfg.txAddr ∧
    fresh.outqConsOpen = true ∧ (∃ t, exec (.ioWr 0x00C0 1) quitted = .next t) ∧ quitted.outqConsOpen = false :=
  ⟨by decide, ⟨_, rfl⟩, by decide, by decide, ⟨_, rfl⟩, by decide, by decide, ⟨_, rfl⟩, by decide⟩

theorem witness_QueueFrames :
    (∀ i ∈ [Instr.outqTryrecv, .outqRecv, .outqClose, .inqTryrecv, .inqRecv, .inqClose, .inqSend 1],
      ∃ t, exec i fresh = .next t) ∧ fresh.inqConsOpen = true ∧
    ∃ t, exec (.inqSend 1) { fresh with inqConsOpen := false } = .next t :=
  ⟨fun i _ => exec_total i fresh, by decide, ⟨_, rfl⟩⟩

theorem witness_LifecycleFrames : let s := State.resetWith small
    Memory.wf s.mem = true ∧ (∃ t, exec (.load (.bytes [1, 2])) s = .next t) ∧
    (∀ bs, Image.bytes [1, 2] = .bytes bs → bs.length ≤ s.cfg.total → bs.length ≤ (2 : MemAddr).toNat) ∧
    (∃ t, exec (.start true) { s with phase := .loaded } = .next t) ∧ (∃ t, exec .quit fresh = .next t) ∧
    ∃ t, exec .procExit quitted = .next t := by
  refine ⟨by decide, ⟨_, rfl⟩, ?_, ⟨_, rfl⟩, ⟨_, rfl⟩, ⟨_, rfl⟩⟩
  intro bs h _
  injection h with h
  subst h
  decide

theorem witness_StepsKeepStoresCanonical :
    storesWf fresh = true ∧ nextHas (run fresh 0x100BFFFF5A) (fun t => t.mem != fresh.mem) = true := by decide

/-- The invariant holds, and a step leaves the phase, at each phase that has a step. -/
theorem witness_StepsKeepLifecycle :
    lifecycleInv State.reset = true ∧ nextHas (run State.reset 0xB000000000) (fun t => t.phase == .loaded) = true ∧
    lifecycleInv { State.reset with phase := .loaded } = true ∧
    nextHas (run { State.reset with phase := .loaded } 0xC000000001) (fun t => t.phase == .running) = true ∧
    lifecycleInv fresh = true ∧ nextHas (run fresh 0xD000000000) (fun t => t.phase == .exiting) = true ∧
    lifecycleInv quitted = true ∧ nextHas (run quitted 0xE000000000) (fun t => t.phase == .exited) = true := by decide

theorem witness_PhaseTransitionsAsListed :
    nextHas (run { State.reset with phase := .loaded } 0xC000000000)
      (fun t => t.phase == .failed && t.exitCode == some 3) = true ∧
    nextHas (run quitted 0xE000000000) (fun t => t.phase == .exited && t.exitCode == some 0) = true ∧
    nextHas (run fresh 0xD000000000) (fun t => t.phase != fresh.phase) = true := by decide

/-- A step for each clause: a write and a load change `mem`, a port write `io`, a transmit and a receive `outq`, a send
and a receive `inq`. -/
theorem witness_StateChangesOnlyByItsOwner :
    nextHas (run fresh 0x1000000000) (fun t => t.mem != fresh.mem) = true ∧
    nextHas (step (placeFirst ⟨0xB000000000, .bytes [1]⟩ State.reset)) (fun t => t.mem != []) = true ∧
    nextHas (run fresh 0x300000C041) (fun t => t.io != [] && t.outq != []) = true ∧
    nextHas (run { fresh with outq := [1] } 0x5000000000) (fun t => t.outq == []) = true ∧
    nextHas (run fresh 0x6000000006) (fun t => t.inq != []) = true ∧
    nextHas (run { fresh with inq := [1] } 0x8000000000) (fun t => t.inq == []) = true := by decide

/-- The other clauses: the endpoint flags, the domains, the phase and the codes, `refused`. -/
theorem witness_StateChangesOnlyByItsOwner_flags :
    nextHas (run fresh 0x9000000000) (fun t => !t.outqConsOpen) = true ∧
    nextHas (run fresh 0xA000000000) (fun t => !t.inqConsOpen) = true ∧
    nextHas (run fresh 0xD000000000) (fun t => !t.outqConsOpen && t.host == .done && t.phase == .exiting) = true ∧
    nextHas (run { State.reset with phase := .loaded } 0xC000000001)
      (fun t => t.cpu == .active && t.host == .active) = true ∧
    nextHas (run quitted 0x300000C041) (fun t => t.cpu != .active) = true ∧
    nextHas (run { fresh with inqConsOpen := false } 0x6000000006) (fun t => t.host != .active) = true ∧
    nextHas (run { State.reset with phase := .loaded } 0xC000000000)
      (fun t => t.failCode == some .hostSurface && t.exitCode == some 3) = true ∧
    nextHas (run quitted 0xE000000000) (fun t => t.exitCode == some 0) = true ∧
    nextHas (step (atTurn .host 0x0000000000 fresh)) (fun t => t.refused) = true := by decide

/-- A state with every record set that a run can set at once: the host done, the CPU faulted, a refusal. -/
def stoppedCpu : State :=
  { quitted with
    refused := true, inqConsOpen := false, cpu := .faulted (.transportDisconnected .outbound), sched := [.proc] }

/-- A state with the host faulted. -/
def stoppedHost : State :=
  { fresh with inqConsOpen := false, host := .faulted (.transportDisconnected .inbound), sched := [.cpu] }

/-- A state with the startup records, in a configuration whose steps are refused. -/
def failedStart : State :=
  { State.resetWith invalidCfg with
    phase := .failed, failCode := some .hostSurface, exitCode := some 3, sched := [.proc] }

theorem witness_RecordsAreNeverCleared :
    ∀ s ∈ [stoppedCpu, stoppedHost, failedStart], lifecycleInv s = true ∧ nextHas (step s) (fun _ => true) = true := by
  decide

/-- Each of the five faults occurs. -/
theorem witness_OnlyListedTransactionsFault :
    nextHas (exec (.load .unreadable) State.reset) (fun t => t.last == .faulted .imageUnreadable) = true ∧
    nextHas (exec (.load (.bytes [1, 2, 3, 4, 5])) (State.resetWith small))
      (fun t => t.last == .faulted (.imageTooLarge 5)) = true ∧
    nextHas (exec (.start false) { State.reset with phase := .loaded }) (fun t => t.last == .faulted .hostSurface) = true ∧
    nextHas (exec (.ioWr 0x00C0 1) quitted)
      (fun t => t.last == .faulted (.transportDisconnected .outbound)) = true ∧
    nextHas (exec (.inqSend 1) { fresh with inqConsOpen := false })
      (fun t => t.last == .faulted (.transportDisconnected .inbound)) = true := by decide

theorem witness_InboundQueueIsInvisibleToTheEngine :
    cpuAgentIssues (.ioRd 0x00C0) = true ∧ ∃ t, exec (.ioRd 0x00C0) { fresh with inq := [0x06] } = .next t :=
  ⟨by decide, ⟨_, rfl⟩⟩

/-- Two states that differ in the hidden byte under LSR alone, and a step of the one. -/
theorem witness_HiddenBytesAreNeverObserved : let s := atTurn .cpu 0x200000C500 { fresh with io := [(0xC5, 0x12)] }
    let t := atTurn .cpu 0x200000C500 fresh
    Memory.wf s.io = true ∧ Memory.wf t.io = true ∧ sameButHidden s t ∧ s ≠ t ∧
    nextHas (step s) (fun _ => true) = true := by
  refine ⟨by decide, by decide, ⟨rfl, ?_⟩, by decide, by decide⟩
  intro p hp
  have hne : p.toNat ≠ 0xC5 := by
    intro h
    have hp5 : p = 0xC5 := BitVec.eq_of_toNat_eq h
    subst hp5
    revert hp
    decide
  show Memory.get [(0xC5, 0x12)] p.toNat = Memory.get [] p.toNat
  rw [Memory.get_cell, if_neg (Ne.symm hne)]

theorem witness_DescribedSystemNeverDrainsInbound : let s := atTurn .host 0x6000000006 fresh
    agentsKeepAlphabet s = true ∧ s.inqConsOpen = true ∧ nextHas (step s) (fun t => t.inq == [0x06]) = true := by decide

/-- HOST issues a word and has a turn, and the machine steps. -/
def hostDoes (w : TxnWord) : List Act := [.issue .host ⟨w, .bytes []⟩, .schedule .host, .step]

/-- A quit, and a close of the endpoint it has torn down. -/
theorem witness_HostLoopIsTicksThenQuit :
    tally (fun _ => hostEvents) (hostDoes 0xD000000000 ++ hostDoes 0x9000000000) fresh =
      [] ++ (.quit, .returned .none) :: [(.outqClose, .returned .none)] := by decide

/-- The premises of both clauses, each in a fair run. -/
theorem witness_FairRunsMakeProgress :
    (IsRun pollingRun pollingActs ∧ Fair pollingRun pollingActs ∧ (pollingRun 0).host = .active ∧
      (pollingRun 0).outq = [] ++ 0x21 :: []) ∧
    (IsRun cpuRun cpuActs ∧ Fair cpuRun cpuActs ∧ configValid (cpuRun 0).cfg = true ∧ (cpuRun 0).cpu = .active ∧
      ((cpuRun 0).phase = .running ∨ (cpuRun 0).phase = .exiting) ∧
      (cpuRun 0).cpuTxns = ⟨0x0000000300, .bytes []⟩ :: [] ∧
      decode (cpuRun 0).cfg.addrWidth ⟨0x0000000300, .bytes []⟩ = .ok (.memRd 3) ∧ cpuAgentIssues (.memRd 3) = true) :=
  ⟨⟨fun _ => rfl, pollingRun_fair, rfl, rfl⟩,
    ⟨fun _ => rfl, cpuRun_fair, by decide, rfl, .inr rfl, rfl, by decide, rfl⟩⟩

/-! ### The pseudo-transactions, the host loop, the terminal phases -/

theorem test_boot :                                                                      -- R64
    bootTxns (.bytes [0x3E]) = [.load (.bytes [0x3E]), .start true] ∧
    (runTxns (bootTxns .unreadable) State.reset).exitCode = some 1 ∧
    (runTxns (bootTxns (.bytes [0x3E])) State.reset).phase = .running := by decide
theorem test_txs : txsTxns Config.tc1 ['H', 'i'] = [.ioWr 0x00C0 0x48, .ioWr 0x00C0 0x69] := by decide   -- P2
theorem test_quit_ends_the_loop :                                                        -- R123
    followsHostLoop [(.outqTryrecv, .returned .empty), (.quit, .returned .none)] = true ∧
    followsHostLoop [(.quit, .returned .none), (.outqTryrecv, .returned .empty)] = false := by decide
/-- R123, R124: no quit inside a `DRAIN`; a run may be cut there, and a quit may come before the next tick. -/
theorem test_described_runs : let s := { fresh with outq := [0x48] }
    describedRun (hostDoes 0x4000000000 ++ hostDoes 0xD000000000) s = false ∧
    describedRun (hostDoes 0x4000000000) s = true ∧
    describedRun (hostDoes 0x4000000000 ++ hostDoes 0x4000000000 ++ hostDoes 0xD000000000) s = true := by decide
theorem test_no_refusal_after_the_end :                                                  -- R117
    nextHas (exec .outqTryrecv ended0) (fun t => t.last == .held && !t.refused) = true := by decide

end Sys2Proof.Tests
end

namespace Sys2Proof.Proofs.MemoryRange
open Sys2Proof Sys2Proof.Machine

/-! ### The output field `last` is written by every transaction and read by none (log entry 5) -/

theorem exec_withLast (i : Instr) (r : TxnResult) (s : State) : exec i { s with last := r } = exec i s := by
  cases i <;> rfl

theorem runTxn_withLast (i : Instr) (r : TxnResult) (s : State) : runTxn i { s with last := r } = runTxn i s := by
  obtain ⟨t, ht⟩ := exec_total i s
  simp only [runTxn, exec_withLast, ht]

/-- What the last turn came to before a run is not seen by any memory read after it. -/
theorem memRead_runTxns_withLast (is : List Instr) (r : TxnResult) (s : State) (x : MemAddr) :
    memRead (runTxns is { s with last := r }) x = memRead (runTxns is s) x := by
  cases is with
  | nil => exact memRead_congr rfl rfl x
  | cons i is => simp only [runTxns, runTxn_withLast]

/-! ### A write out of range -/

theorem runTxn_memWr (a : MemAddr) (v : Byte) (s : State) :
    runTxn (.memWr a v) s = whenEnabled (cpuEnabled s) s (respond .none (memWrite a v s)) := rfl

/-- A write out of range, run or held, leaves everything but `last` as it was (R38, R71). -/
theorem runTxn_memWr_outOfRange (s : State) (a : MemAddr) (v : Byte) (h : s.cfg.total ≤ a.toNat) :
    ∃ r, runTxn (.memWr a v) s = { s with last := r } := by
  rw [runTxn_memWr, memWrite_outOfRange s a v h]
  cases cpuEnabled s with
  | true => exact ⟨.returned .none, rfl⟩
  | false => exact ⟨.held, rfl⟩

/-- Settles O17: an out-of-range write changes nothing but `last`, and no later transaction reads `last`. -/
theorem outOfRangeNeverAliases : Obligations.OutOfRangeNeverAliases := by
  intro s a v
  refine ⟨memRead_inRange s a, fun hout => ?_⟩
  obtain ⟨r, hr⟩ := runTxn_memWr_outOfRange s a v hout
  rw [hr]
  exact ⟨memRead_outOfRange s a hout, fun _ => rfl, fun is x _ => memRead_runTxns_withLast is r s x⟩

end Sys2Proof.Proofs.MemoryRange

namespace Sys2Proof.Proofs.MemoryWrite
open Sys2Proof Sys2Proof.Machine

/-! ### A write that runs -/

/-- An enabled `MEM_WR` completes: it has no consumer endpoint that could refuse it (R70). -/
theorem exec_memWr_of_cpuEnabled (a : MemAddr) (v : Byte) (s : State) (h : cpuEnabled s = true) :
    exec (.memWr a v) s = .next (respond .none (memWrite a v s)) := by
  have hpass : passesEndpoint (.memWr a v) s = true := rfl
  have henabled : enabled (.memWr a v) s = true := h
  rw [exec_eq, if_pos hpass, if_pos henabled, body]

/-- What a write in range leaves in every cell of the store (R71). -/
theorem get_memWrite_mem (s : State) (a : MemAddr) (v : Byte) (hwf : Memory.wf s.mem = true)
    (ha : a.toNat < s.cfg.total) (x : Nat) :
    Memory.get (memWrite a v s).mem x = if x = a.toNat then v else Memory.get s.mem x := by
  rw [memWrite_mem, inRange, if_pos (decide_eq_true ha)]
  exact Memory.get_set s.mem a.toNat v hwf x

/-- Settles O15: the next state is the written state with its response, which differs from `s` in `mem` and `last`. -/
theorem memWrStoresByte : Obligations.MemWrStoresByte := by
  intro s a v hphase hcpu hwf
  have hexec := exec_memWr_of_cpuEnabled a v s ((cpuEnabled_iff s).2 ⟨hphase, hcpu⟩)
  refine ⟨_, hexec, respond_last _ _, rfl, fun ha x => ?_, fun hout => ?_⟩
  · rw [respond_mem]
    exact get_memWrite_mem s a v hwf ha x
  · rw [memWrite_outOfRange s a v hout, respond_mem]

end Sys2Proof.Proofs.MemoryWrite

namespace Sys2Proof.Proofs.TimerPorts
open Sys2Proof Sys2Proof.Machine

/-! ### The parameters are out of every transaction's reach -/

theorem runTxn_cfg (i : Instr) (s : State) : (runTxn i s).cfg = s.cfg := by
  obtain ⟨t, ht⟩ := exec_total i s
  obtain ⟨hcfg, -⟩ := exec_sameInputs ht
  rw [runTxn, ht]
  exact hcfg

theorem runTxns_cfg (is : List Instr) (s : State) : (runTxns is s).cfg = s.cfg := by
  induction is generalizing s with
  | nil => rfl
  | cons i is ih => rw [runTxns, ih, runTxn_cfg]

/-! ### What a port of an accepted configuration reads as -/

theorem ports_nodup_of_configValid {c : Config} (h : configValid c = true) :
    [c.txAddr, c.ctsAddr, c.lsrAddr, c.tmrLoAddr, c.tmrHiAddr].Nodup := by
  simp only [configValid, Bool.and_eq_true] at h
  obtain ⟨⟨-, hports⟩, -⟩ := h
  exact of_decide_eq_true hports

/-- `syntheticVal` tries CTS and LSR first, and in an accepted configuration neither is a timer port (R8). -/
theorem syntheticVal_timer {c : Config} (h : configValid c = true) {p : Port}
    (hp : p = c.tmrLoAddr ∨ p = c.tmrHiAddr) : syntheticVal c p = some timerVal := by
  have hnodup := ports_nodup_of_configValid h
  simp only [List.nodup_cons, List.mem_cons, not_or] at hnodup
  obtain ⟨-, ⟨-, hctsLo, hctsHi, -⟩, ⟨hlsrLo, hlsrHi, -⟩, -⟩ := hnodup
  rcases hp with rfl | rfl
  · simp [syntheticVal, Ne.symm hctsLo, Ne.symm hlsrLo]
  · simp [syntheticVal, Ne.symm hctsHi, Ne.symm hlsrHi]

/-- An enabled `IO_RD` completes with the byte its port reads as (R78). -/
theorem exec_ioRd_of_cpuEnabled (p : Port) (s : State) (h : cpuEnabled s = true) :
    exec (.ioRd p) s = .next (respond (.byte (portRead s p)) s) := by
  have hpass : passesEndpoint (.ioRd p) s = true := rfl
  have henabled : enabled (.ioRd p) s = true := h
  rw [exec_eq, if_pos hpass, if_pos henabled, body]

/-- Settles O23: a run keeps the configuration, in which the timer ports are synthetic with the constant 0x00. -/
theorem timerPortsReadZero : Obligations.TimerPortsReadZero := by
  intro s is p hvalid hp henabled
  have hsyn : syntheticVal (runTxns is s).cfg p = some timerVal := by
    rw [runTxns_cfg]
    exact syntheticVal_timer hvalid hp
  refine ⟨_, exec_ioRd_of_cpuEnabled p _ henabled, ?_⟩
  rw [respond_last, portRead_synthetic _ p timerVal hsyn, timerVal]

end Sys2Proof.Proofs.TimerPorts

namespace Sys2Proof.Proofs.OutOfRange
open Sys2Proof Sys2Proof.Machine

/-- An enabled `MEM_RD` completes with the byte its address reads as (R67). -/
theorem exec_memRd_of_cpuEnabled (a : MemAddr) (s : State) (h : cpuEnabled s = true) :
    exec (.memRd a) s = .next (respond (.byte (memRead s a)) s) := by
  have hpass : passesEndpoint (.memRd a) s = true := rfl
  have henabled : enabled (.memRd a) s = true := h
  rw [exec_eq, if_pos hpass, if_pos henabled, body]

/-- Settles O18: a read's next state depends on its address only through the byte read, which is the open-bus byte both
out of range and in a cell that holds it; a write out of range only responds. -/
theorem outOfRangeIsNoFault : Obligations.OutOfRangeIsNoFault := by
  intro s a v hphase hcpu hout
  have henabled := (cpuEnabled_iff s).2 ⟨hphase, hcpu⟩
  have hread := memRead_outOfRange s a hout
  refine ⟨?_, ?_, fun b hb hcell => ?_⟩
  · rw [exec_memRd_of_cpuEnabled a s henabled, hread, respond]
  · rw [MemoryWrite.exec_memWr_of_cpuEnabled a v s henabled, memWrite_outOfRange s a v hout, respond]
  · have hsame : memRead s b = memRead s a := by rw [memRead_inRange s b hb, hcell, hread]
    rw [exec_memRd_of_cpuEnabled b s henabled, exec_memRd_of_cpuEnabled a s henabled, hsame]

end Sys2Proof.Proofs.OutOfRange

namespace Sys2Proof.Proofs.PortWrite
open Sys2Proof Sys2Proof.Machine

/-- An enabled `IO_WR` comes to what its port write comes to (R82). -/
theorem exec_ioWr_of_cpuEnabled (p : Port) (v : Byte) (s : State) (h : cpuEnabled s = true) :
    exec (.ioWr p v) s = .next (portWrite p v s) := by
  have hpass : passesEndpoint (.ioWr p v) s = true := rfl
  have henabled : enabled (.ioWr p v) s = true := h
  rw [exec_eq, if_pos hpass, if_pos henabled, body]

end Sys2Proof.Proofs.PortWrite

namespace Sys2Proof.Proofs.AfterQuit
open Sys2Proof Sys2Proof.Machine
open Sys2Proof.Proofs.TimerPorts (runTxn_cfg runTxns_cfg)

/-- What `QUIT` leaves until `PROC_EXIT`: the phase `EXITING` and the outbound consumer endpoint torn down (R113). -/
def ShutDown (s : State) : Prop := s.phase = .exiting ∧ s.outqConsOpen = false

theorem runTxn_quit_shutDown {s : State} (hphase : s.phase = .running) (hhost : s.host = .active) :
    ShutDown (runTxn .quit s) := by
  have hpass : passesEndpoint .quit s = true := rfl
  have henabled : enabled .quit s = true := (quitEnabled_iff s).2 ⟨hphase, hhost⟩
  rw [runTxn, exec_eq, if_pos hpass, if_pos henabled, body]
  exact ⟨quitHost_phase s, quitHost_outqConsOpen s⟩

theorem recvOut_shutDown {e s : State} (he : ShutDown e) (hs : ShutDown s) : ShutDown (recvOut e s) := by
  rcases recvOut_cases e s with ⟨-, heq⟩ | ⟨b, q, -, heq⟩ <;> rw [heq]
  · exact he
  · exact hs

theorem recvIn_shutDown {e s : State} (he : ShutDown e) (hs : ShutDown s) : ShutDown (recvIn e s) := by
  rcases recvIn_cases e s with ⟨-, heq⟩ | ⟨b, q, -, heq⟩ <;> rw [heq]
  · exact he
  · exact hs

/-- The other transactions that write the phase, `LOAD`, `START` and `QUIT`, are not enabled in `EXITING` (R120), and
none opens the endpoint. -/
theorem body_shutDown {i : Instr} {s : State} (h : ShutDown s) (henabled : enabled i s = true) (hi : i ≠ .procExit) :
    ShutDown (body i s) := by
  have ⟨hphase, hclosed⟩ := h
  cases i with
  | load img => simp [enabled, loadEnabled, hphase] at henabled
  | start ok => simp [enabled, startEnabled, hphase] at henabled
  | quit => simp [enabled, quitEnabled, hphase] at henabled
  | procExit => exact absurd rfl hi
  | ioWr p v =>
    rcases portWrite_cases p v s with ⟨-, heq⟩ | ⟨-, -, heq⟩ | ⟨-, -, heq⟩ <;>
      simp [body, heq, ShutDown, hphase, hclosed]
  | inqSend v =>
    rcases sendIn_cases v s with ⟨-, heq⟩ | ⟨-, heq⟩ <;> simp [body, heq, ShutDown, hphase, hclosed]
  | outqTryrecv => exact recvOut_shutDown h h
  | outqRecv => exact recvOut_shutDown h h
  | inqTryrecv => exact recvIn_shutDown h h
  | inqRecv => exact recvIn_shutDown h h
  | _ => simp [body, ShutDown, hphase, hclosed]

theorem runTxn_shutDown {i : Instr} {s : State} (h : ShutDown s) (hi : i ≠ .procExit) : ShutDown (runTxn i s) := by
  obtain ⟨t, ht⟩ := exec_total i s
  rw [runTxn, ht]
  rcases exec_cases ht with ⟨-, rfl⟩ | ⟨-, -, rfl⟩ | ⟨-, henabled, rfl⟩
  · exact h
  · exact h
  · exact body_shutDown h henabled hi

theorem runTxns_shutDown {is : List Instr} {s : State} (h : ShutDown s) (his : .procExit ∉ is) :
    ShutDown (runTxns is s) := by
  induction is generalizing s with
  | nil => exact h
  | cons i is ih =>
    obtain ⟨hi, his⟩ := List.ne_and_not_mem_of_not_mem_cons his
    exact ih (runTxn_shutDown h hi.symm) his

theorem portWrite_txAddr_of_closed {s : State} {p : Port} (hp : p = s.cfg.txAddr) (hclosed : s.outqConsOpen = false)
    (v : Byte) : portWrite p v s = stopCpu (.transportDisconnected .outbound) (portStore p v s) := by
  rw [portWrite, if_pos hp, sendOut, if_neg (by simp [hclosed]), raiseFault_cpu]

/-- Settles O42: until `PROC_EXIT` the phase stays `EXITING`, so an active CPU's `IO_WR` is enabled, and the endpoint
stays torn down, so the send faults. -/
theorem transmitAfterQuitFaults : Obligations.TransmitAfterQuitFaults := by
  intro s is v hphase hhost his hcpu
  obtain ⟨hexiting, hclosed⟩ := runTxns_shutDown (runTxn_quit_shutDown hphase hhost) his
  have henabled := (cpuEnabled_iff _).2 ⟨.inr hexiting, hcpu⟩
  have htx : s.cfg.txAddr = (runTxns is (runTxn .quit s)).cfg.txAddr := by rw [runTxns_cfg, runTxn_cfg]
  refine ⟨_, PortWrite.exec_ioWr_of_cpuEnabled _ v _ henabled, ?_⟩
  rw [portWrite_txAddr_of_closed htx hclosed]
  exact ⟨rfl, rfl⟩

end Sys2Proof.Proofs.AfterQuit

namespace Sys2Proof.Proofs.SyntheticPorts
open Sys2Proof Sys2Proof.Machine
open Sys2Proof.Proofs.TimerPorts (ports_nodup_of_configValid syntheticVal_timer exec_ioRd_of_cpuEnabled)

/-- `P_TX_ADDR` of an accepted configuration is none of the synthetic ports (R8). -/
theorem syntheticVal_txAddr {c : Config} (h : configValid c = true) : syntheticVal c c.txAddr = none := by
  have hnodup := ports_nodup_of_configValid h
  simp only [List.nodup_cons, List.mem_cons, not_or] at hnodup
  obtain ⟨⟨hcts, hlsr, htmrLo, htmrHi, -⟩, -⟩ := hnodup
  simp [syntheticVal, hcts, hlsr, htmrLo, htmrHi]

theorem syntheticVal_ctsAddr (c : Config) : syntheticVal c c.ctsAddr = some c.ctsVal := by
  rw [syntheticVal, if_pos rfl]

theorem syntheticVal_lsrAddr {c : Config} (h : configValid c = true) : syntheticVal c c.lsrAddr = some c.lsrVal := by
  have hnodup := ports_nodup_of_configValid h
  simp only [List.nodup_cons, List.mem_cons, not_or] at hnodup
  obtain ⟨-, ⟨hcts, -⟩, -⟩ := hnodup
  rw [syntheticVal, if_neg (Ne.symm hcts), if_pos rfl]

/-- The four synthetic ports of an accepted configuration, each with its constant (R76). -/
theorem syntheticVal_of_mem {c : Config} (h : configValid c = true) {p : Port} {b : Byte}
    (hp : (p, b) ∈ [(c.ctsAddr, c.ctsVal), (c.lsrAddr, c.lsrVal), (c.tmrLoAddr, 0x00), (c.tmrHiAddr, 0x00)]) :
    syntheticVal c p = some b := by
  simp only [List.mem_cons, Prod.mk.injEq, List.not_mem_nil, or_false] at hp
  rcases hp with ⟨rfl, rfl⟩ | ⟨rfl, rfl⟩ | ⟨rfl, rfl⟩ | ⟨rfl, rfl⟩
  · exact syntheticVal_ctsAddr c
  · exact syntheticVal_lsrAddr h
  · exact syntheticVal_timer h (.inl rfl)
  · exact syntheticVal_timer h (.inr rfl)

/-- Settles O22: a synthetic port is not the transmit port, so the write only stores its byte and responds, and the read
that follows gives the constant whatever is stored. -/
theorem syntheticPortsIgnoreWrites : Obligations.SyntheticPortsIgnoreWrites := by
  intro s v hphase hcpu hvalid p c hp
  have hsyn := syntheticVal_of_mem hvalid hp
  have hne : p ≠ s.cfg.txAddr := by
    rintro rfl
    simp [syntheticVal_txAddr hvalid] at hsyn
  have henabled := (cpuEnabled_iff s).2 ⟨hphase, hcpu⟩
  have hwrite : exec (.ioWr p v) s = .next (respond .none (portStore p v s)) := by
    rw [PortWrite.exec_ioWr_of_cpuEnabled p v s henabled, portWrite, if_neg hne]
  refine ⟨_, _, hwrite, exec_ioRd_of_cpuEnabled p _ henabled, ?_, portRead_synthetic s p c hsyn⟩
  rw [respond_last, portRead_synthetic (respond .none (portStore p v s)) p c hsyn]

end Sys2Proof.Proofs.SyntheticPorts

namespace Sys2Proof.Proofs.Encoding
open Sys2Proof Sys2Proof.Machine

/-! ### The decoder and the encoder are one relation -/

theorem ite_else_error_eq_ok {p : Prop} [Decidable p] {e : DecodeError} {x : Except DecodeError Instr} {i : Instr} :
    (if p then x else .error e) = .ok i ↔ p ∧ x = .ok i := by
  by_cases hp : p <;> simp [hp]

/-- What is said of a transaction by the fields of a word and the image beside it. -/
def FieldsOf (aw : AddrWidth) (op : BitVec 4) (a : BitVec 24) (d : BitVec 8) (img : Image) (i : Instr) : Prop :=
  i.op = op ∧ i.addressField = a ∧ i.dataField = d ∧ i.wellFormed aw = true ∧ ∀ m, i = .load m → m = img

/-- `surfaceFlag_of_dHigh` in the form the simplifier brings the flag to. -/
theorem surfaceFlag_getElem {d : BitVec 8} (h : dHigh d = 0#7) : (if d[0] = true then 1#8 else 0#8) = d :=
  surfaceFlag_of_dHigh d h

theorem fieldsOf_of_decodeFields {aw : AddrWidth} {op : BitVec 4} {a : BitVec 24} {d : BitVec 8} {img : Image}
    {i : Instr} (h : decodeFields aw op a d img = .ok i) : FieldsOf aw op a d img i := by
  rcases op_values op with rfl | rfl | rfl | rfl | rfl | rfl | rfl | rfl | rfl | rfl | rfl | rfl | rfl | rfl | rfl | rfl
  all_goals simp [decodeFields, ite_else_error_eq_ok, ← and_assoc] at h
  all_goals
    obtain ⟨h, rfl⟩ := h
    simp [FieldsOf, Instr.op, Instr.addressField, Instr.dataField, Instr.wellFormed, setWidth_aPort,
      surfaceFlag_getElem, h]

theorem decodeFields_of_fieldsOf {aw : AddrWidth} {op : BitVec 4} {a : BitVec 24} {d : BitVec 8} {img : Image}
    {i : Instr} (h : FieldsOf aw op a d img i) : decodeFields aw op a d img = .ok i := by
  obtain ⟨rfl, rfl, rfl, hwf, himg⟩ := h
  cases i with
  | memRd a => simpa [decodeFields, Instr.op, Instr.addressField, Instr.dataField, Instr.wellFormed] using hwf
  | memWr a v => simpa [decodeFields, Instr.op, Instr.addressField, Instr.dataField, Instr.wellFormed] using hwf
  | start ok => cases ok <;> rfl
  | load m => simp [decodeFields, Instr.op, Instr.addressField, Instr.dataField, himg m rfl]
  | _ => simp [decodeFields, Instr.op, Instr.addressField, Instr.dataField]

theorem op_ne_reserved (i : Instr) : i.op ≠ 0xF := by cases i <;> simp [Instr.op]

/-- A word decodes to a transaction exactly when it is that transaction's encoding, the transaction fits the width, and
a `LOAD` carries the image beside the word. -/
theorem decode_ok_iff (aw : AddrWidth) (r : Request) (i : Instr) :
    decode aw r = .ok i ↔ (encode i).word = r.word ∧ i.wellFormed aw = true ∧ ∀ m, i = .load m → m = r.img := by
  constructor
  · intro h
    obtain ⟨-, hz, hfields⟩ := decode_ok h
    obtain ⟨hop, ha, hd, hwf, himg⟩ := fieldsOf_of_decodeFields hfields
    exact ⟨by rw [encode, hop, ha, hd, ← hz, packWord_fields], hwf, himg⟩
  · rintro ⟨hword, hwf, himg⟩
    rw [decode, ← hword, encode, opField_packWord, zField_packWord, aField_packWord, dField_packWord,
      if_neg (op_ne_reserved i), if_neg (by simp)]
    exact decodeFields_of_fieldsOf ⟨rfl, rfl, rfl, hwf, himg⟩

/-- Settles O2: the encoding of a transaction is its word, with its image beside it. -/
theorem decodeInvertsEncode : Obligations.DecodeInvertsEncode := by
  intro aw i hwf
  refine (decode_ok_iff aw (encode i) i).2 ⟨rfl, hwf, ?_⟩
  rintro m rfl
  rfl

/-- Settles O3: the other direction of the same relation. -/
theorem encodeInvertsDecode : Obligations.EncodeInvertsDecode :=
  fun aw r i h => (decode_ok_iff aw r i).1 h

/-! ### The opcode table -/

/-- The bits of the address field that a transaction of the row leaves zero (R55). -/
def strayAddress : Instr → BitVec 24
  | .memRd _ | .memWr _ _ => 0#24
  | .ioRd _ | .ioWr _ _   => 0xFF0000#24
  | _                     => 0xFFFFFF#24

/-- The bits of the data field that a transaction of the row leaves zero (R55). -/
def strayData : Instr → BitVec 8
  | .memWr _ _ | .ioWr _ _ | .inqSend _ => 0#8
  | .start _                            => 0xFE#8
  | _                                   => 0xFF#8

theorem row_pattern (i : Instr) : i.row.pattern = packWord i.op 0#4 0#24 0#8 := by
  cases i <;> (simp only [Instr.row, Instr.op]; decide)

theorem row_mask (i : Instr) : i.row.mask = packWord 0xF 0xF (strayAddress i) (strayData i) := by
  cases i <;> (simp only [Instr.row, strayAddress, strayData]; decide)

/-- A row holds the words of its `OP` whose `Z` and whose unused bits are zero. -/
theorem row_holds_iff (i : Instr) (w : TxnWord) :
    i.row.holds w = true ↔
      opField w = i.op ∧ zField w = 0#4 ∧ aField w &&& strayAddress i = 0#24 ∧
        dField w &&& strayData i = 0#8 := by
  have hop : opField w &&& 0xF = opField w := BitVec.and_allOnes
  have hz : zField w &&& 0xF = zField w := BitVec.and_allOnes
  rw [OpcodeRow.holds, row_pattern, row_mask, beq_iff_eq, ← packWord_inj]
  conv_lhs => rw [← packWord_fields w, packWord_and, hop, hz]

/-- The address of an encoded memory transaction is its operand, which fits the width. -/
theorem address_lt_of_wellFormed {aw : AddrWidth} {i : Instr} (hwf : i.wellFormed aw = true)
    (hop : opField (encode i).word ∈ [0x0, 0x1]) : (aField (encode i).word).toNat < 2 ^ aw.bits := by
  rw [encode, opField_packWord] at hop
  rw [encode, aField_packWord]
  cases i with
  | memRd a => simpa [Instr.wellFormed, Instr.addressField] using hwf
  | memWr a v => simpa [Instr.wellFormed, Instr.addressField] using hwf
  | _ => simp [Instr.op] at hop

/-- The per-row lemmas in one. -/
theorem encodingInRow_statement (i : Instr) : Laws.EncodingInRow.Statement i := by
  cases i with
  | memRd a => exact Laws.EncodingInRow.memRd a
  | memWr a v => exact Laws.EncodingInRow.memWr a v
  | ioRd p => exact Laws.EncodingInRow.ioRd p
  | ioWr p v => exact Laws.EncodingInRow.ioWr p v
  | outqTryrecv => exact Laws.EncodingInRow.outqTryrecv
  | outqRecv => exact Laws.EncodingInRow.outqRecv
  | inqSend v => exact Laws.EncodingInRow.inqSend v
  | inqTryrecv => exact Laws.EncodingInRow.inqTryrecv
  | inqRecv => exact Laws.EncodingInRow.inqRecv
  | outqClose => exact Laws.EncodingInRow.outqClose
  | inqClose => exact Laws.EncodingInRow.inqClose
  | load img => exact Laws.EncodingInRow.load img
  | start ok => exact Laws.EncodingInRow.start ok
  | quit => exact Laws.EncodingInRow.quit
  | procExit => exact Laws.EncodingInRow.procExit

theorem mem_opcodeTable_iff (row : OpcodeRow) : row ∈ opcodeTable ↔ ∃ i : Instr, i.row = row := by
  constructor
  · intro h
    obtain ⟨i, -, hi⟩ := List.mem_map.1 h
    exact ⟨i, hi⟩
  · rintro ⟨i, rfl⟩
    exact Laws.EncodingInRow.row_mem i

/-- The table lists the rows by their `OP`, so transactions of one `OP` are of one row. -/
theorem opcodeTable_getElem_op (i : Instr) : opcodeTable[i.op.toNat]? = some i.row := by cases i <;> rfl

theorem row_eq_of_op_eq {i j : Instr} (h : i.op = j.op) : i.row = j.row := by
  have hi := opcodeTable_getElem_op i
  rw [h, opcodeTable_getElem_op j] at hi
  exact (Option.some.inj hi).symm

theorem op_eq_of_row_eq {i j : Instr} (h : i.row = j.row) : i.op = j.op := by
  have hp : packWord i.op 0#4 0#24 0#8 = packWord j.op 0#4 0#24 0#8 := by rw [← row_pattern, ← row_pattern, h]
  exact (packWord_inj.1 hp).1

/-! ### The masks of the table say which fields are zero (R54, R55) -/

theorem and_addressMask (a : BitVec 24) : a &&& 0xFFFFFF#24 = a := BitVec.and_allOnes

theorem and_dataMask (d : BitVec 8) : d &&& 0xFF#8 = d := BitVec.and_allOnes

theorem aHigh_of_and_portMask {a : BitVec 24} (h : a &&& 0xFF0000#24 = 0#24) : aHigh a = 0#8 := by
  have hand : aHigh (a &&& 0xFF0000#24) = aHigh a &&& 0xFF#8 := BitVec.extractLsb'_and
  rw [← and_dataMask (aHigh a), ← hand, h]
  rfl

theorem dHigh_of_and_flagMask {d : BitVec 8} : d &&& 0xFE#8 = 0#8 → dHigh d = 0#7 := by
  revert d
  decide

/-- A word of a row decodes, if a memory address in it fits the width. -/
theorem exists_decode_ok_of_row_holds {aw : AddrWidth} {r : Request} {i : Instr} (h : i.row.holds r.word = true)
    (hwide : opField r.word ∈ [0x0, 0x1] → (aField r.word).toNat < 2 ^ aw.bits) : ∃ j, decode aw r = .ok j := by
  obtain ⟨hop, hz, ha, hd⟩ := (row_holds_iff i r.word).1 h
  rw [decode, hop, if_neg (op_ne_reserved i), if_neg (by simp [hz])]
  rw [hop] at hwide
  cases i with
  | ioRd p =>
    simp only [strayAddress, strayData, and_dataMask] at ha hd
    simp [decodeFields, Instr.op, aHigh_of_and_portMask ha, hd]
  | ioWr p v =>
    simp only [strayAddress] at ha
    simp [decodeFields, Instr.op, aHigh_of_and_portMask ha]
  | start ok =>
    simp only [strayAddress, strayData, and_addressMask] at ha hd
    simp [decodeFields, Instr.op, dHigh_of_and_flagMask hd, ha]
  | _ =>
    simp only [strayAddress, strayData, and_dataMask, and_addressMask] at ha hd
    simp [Instr.op] at hwide
    simp [decodeFields, Instr.op, ha, hd, hwide]

/-- Settles O4: a decoded word is an encoding, so a word of its transaction's row; and a row fixes `OP`, as `OP` fixes
the row. -/
theorem decodedWordsAreTableWords : Obligations.DecodedWordsAreTableWords := by
  intro aw r
  have hrow : ∀ i, decode aw r = .ok i → i.row.holds r.word = true := by
    intro i h
    rw [← ((decode_ok_iff aw r i).1 h).1]
    exact (encodingInRow_statement i).1
  refine ⟨⟨?_, ?_⟩, fun i h row hmem => ⟨fun hholds => ?_, ?_⟩⟩
  · rintro ⟨i, h⟩
    refine ⟨⟨i.row, Laws.EncodingInRow.row_mem i, hrow i h⟩, fun hop => ?_⟩
    obtain ⟨hword, hwf, -⟩ := (decode_ok_iff aw r i).1 h
    rw [← hword] at hop ⊢
    exact address_lt_of_wellFormed hwf hop
  · rintro ⟨⟨row, hmem, hholds⟩, hwide⟩
    obtain ⟨i, rfl⟩ := (mem_opcodeTable_iff row).1 hmem
    exact exists_decode_ok_of_row_holds hholds hwide
  · obtain ⟨j, rfl⟩ := (mem_opcodeTable_iff row).1 hmem
    apply row_eq_of_op_eq
    rw [← ((row_holds_iff j r.word).1 hholds).1, ← ((row_holds_iff i r.word).1 (hrow i h)).1]
  · rintro rfl
    exact hrow i h

/-! ### The invalid words -/

theorem decode_error_iff (aw : AddrWidth) (w : TxnWord) (img : Image) :
    (∃ e, decode aw ⟨w, img⟩ = .error e) ↔
      opField w = 15#4 ∨ zField w ≠ 0#4 ∨ ∃ e, decodeFields aw (opField w) (aField w) (dField w) img = .error e := by
  unfold decode
  by_cases hop : opField w = 15#4
  · simp [hop]
  · by_cases hz : zField w = 0#4
    · simp [hop, hz]
    · simp [hop, hz]

theorem ite_else_error_error {p : Prop} [Decidable p] {e : DecodeError} {x : Except DecodeError Instr} :
    (∃ f, (if p then x else .error e) = .error f) ↔ (∃ f, x = .error f) ∨ ¬ p := by
  by_cases hp : p <;> simp [hp]

/-- Settles O5: R60's case list, one `OP` at a time. -/
theorem invalidWordsAreExactlyThose : Obligations.InvalidWordsAreExactlyThose := by
  intro aw w img
  rw [decode_error_iff]
  by_cases hz : zField w = 0#4
  · rcases op_values (opField w) with h | h | h | h | h | h | h | h | h | h | h | h | h | h | h | h
    all_goals simp [h, hz, decodeFields, ite_else_error_error]
  · simp [hz]

/-- Settles O1: R60 on words written out. -/
theorem decodeReadsWrittenWords : Obligations.DecodeReadsWrittenWords := by
  unfold Obligations.DecodeReadsWrittenWords
  decide

/-! ### Responses -/

theorem bits_byte_toNat (b : Byte) : (Response.bits (.byte b)).toNat = 0x100 + b.toNat := by
  have hb := b.isLt
  rw [Response.bits, BitVec.toNat_append, ← Nat.shiftLeft_add_eq_or_of_lt hb]
  rfl

/-- Settles O6: the kind is the quotient by 2^8, and a byte leaves it 1. -/
theorem responseBitsAsLaidOut : Obligations.ResponseBitsAsLaidOut := by
  refine ⟨rfl, rfl, bits_byte_toNat, fun r => ?_⟩
  cases r with
  | none => decide
  | empty => decide
  | byte b =>
    have hb := b.isLt
    rw [bits_byte_toNat]
    omega

end Sys2Proof.Proofs.Encoding

namespace Sys2Proof.Proofs.Bodies
open Sys2Proof Sys2Proof.Machine

/-! ### When a transaction comes to its body -/

theorem passesEndpoint_of_open {i : Instr} {s : State} (h : endpointOpen i s = true) : passesEndpoint i s = true := by
  rw [passesEndpoint, h, Bool.true_or]

theorem exec_of_enabled (i : Instr) (s : State) (hopen : endpointOpen i s = true) (henabled : enabled i s = true) :
    exec i s = .next (body i s) := by
  rw [exec_eq, if_pos (passesEndpoint_of_open hopen), if_pos henabled]

theorem exec_of_not_enabled (i : Instr) (s : State) (hpass : passesEndpoint i s = true) (h : enabled i s = false) :
    exec i s = .next (hold s) := by
  rw [exec_eq, if_pos hpass, h, if_neg Bool.false_ne_true]

theorem exec_of_closed (i : Instr) (s : State) (hpass : passesEndpoint i s = false) :
    exec i s = .next (refuse .closedEndpoint s) := by
  rw [exec_eq, hpass, if_neg Bool.false_ne_true]

/-- A transaction that needs no consumer endpoint, or has it, is not refused. -/
theorem exec_cases_of_open {i : Instr} {s t : State} (hopen : endpointOpen i s = true) (h : exec i s = .next t) :
    (enabled i s = false ∧ t = hold s) ∨ (enabled i s = true ∧ t = body i s) := by
  rcases exec_cases h with ⟨hpass, -⟩ | ⟨-, hcase⟩ | ⟨-, hcase⟩
  · rw [passesEndpoint_of_open hopen] at hpass
    cases hpass
  · exact .inl hcase
  · exact .inr hcase

/-! ### What each transaction's body leaves, as one record

The conditions stand at the fields they decide, so that a field a transaction does not write is seen to be the old one
without a case split. -/

@[simp] theorem body_memRd (a : MemAddr) (s : State) :
    body (.memRd a) s = { s with last := .returned (.byte (memRead s a)) } := rfl

@[simp] theorem body_memWr (a : MemAddr) (v : Byte) (s : State) :
    body (.memWr a v) s = { s with mem := (memWrite a v s).mem, last := .returned .none } := rfl

@[simp] theorem body_ioRd (p : Port) (s : State) :
    body (.ioRd p) s = { s with last := .returned (.byte (portRead s p)) } := rfl

@[simp] theorem body_ioWr (p : Port) (v : Byte) (s : State) :
    body (.ioWr p v) s = { s with
      io := Memory.set s.io p.toNat v
      outq := if p = s.cfg.txAddr ∧ s.outqConsOpen = true then s.outq ++ [v] else s.outq
      cpu := if p = s.cfg.txAddr ∧ s.outqConsOpen = false then .faulted (.transportDisconnected .outbound) else s.cpu
      last := if p = s.cfg.txAddr ∧ s.outqConsOpen = false then .faulted (.transportDisconnected .outbound)
        else .returned .none } := by
  rcases portWrite_cases p v s with ⟨hp, h⟩ | ⟨hp, ho, h⟩ | ⟨hp, ho, h⟩
  · simp only [body, h, hp, false_and, if_false]
    rfl
  · have hnot : ¬ (p = s.cfg.txAddr ∧ s.outqConsOpen = false) := by simp [ho]
    rw [body, h, if_pos ⟨hp, ho⟩, if_neg hnot, if_neg hnot]
    rfl
  · have hnot : ¬ (p = s.cfg.txAddr ∧ s.outqConsOpen = true) := by simp [ho]
    rw [body, h, if_neg hnot, if_pos ⟨hp, ho⟩, if_pos ⟨hp, ho⟩]
    rfl

/-- What a receive answers: the head of the queue, or `e` where there is none. -/
def received (q : List Byte) (e : TxnResult) : TxnResult :=
  match q with
  | []     => e
  | b :: _ => .returned (.byte b)

@[simp] theorem received_nil (e : TxnResult) : received [] e = e := rfl
@[simp] theorem received_cons (b : Byte) (q : List Byte) (e : TxnResult) :
    received (b :: q) e = .returned (.byte b) := rfl

theorem recvOut_eq (e : TxnResult) (s : State) :
    recvOut { s with last := e } s = { s with outq := s.outq.tail, last := received s.outq e } := by
  obtain ⟨mem, io, outq⟩ := s
  cases outq <;> rfl

theorem recvIn_eq (e : TxnResult) (s : State) :
    recvIn { s with last := e } s = { s with inq := s.inq.tail, last := received s.inq e } := by
  obtain ⟨mem, io, outq, inq⟩ := s
  cases inq <;> rfl

@[simp] theorem body_outqTryrecv (s : State) :
    body .outqTryrecv s = { s with outq := s.outq.tail, last := received s.outq (.returned .empty) } :=
  recvOut_eq _ s

@[simp] theorem body_outqRecv (s : State) :
    body .outqRecv s = { s with outq := s.outq.tail, last := received s.outq .held } :=
  recvOut_eq _ s

@[simp] theorem body_inqSend (v : Byte) (s : State) :
    body (.inqSend v) s = { s with
      inq := if s.inqConsOpen = true then s.inq ++ [v] else s.inq
      host := if s.inqConsOpen = true then s.host else .faulted (.transportDisconnected .inbound)
      last := if s.inqConsOpen = true then .returned .none else .faulted (.transportDisconnected .inbound) } := by
  obtain ⟨mem, io, outq, inq, outqConsOpen, inqConsOpen⟩ := s
  cases inqConsOpen <;> rfl

@[simp] theorem body_inqTryrecv (s : State) :
    body .inqTryrecv s = { s with inq := s.inq.tail, last := received s.inq (.returned .empty) } :=
  recvIn_eq _ s

@[simp] theorem body_inqRecv (s : State) :
    body .inqRecv s = { s with inq := s.inq.tail, last := received s.inq .held } :=
  recvIn_eq _ s

@[simp] theorem body_outqClose (s : State) :
    body .outqClose s = { s with outqConsOpen := false, last := .returned .none } := rfl

@[simp] theorem body_inqClose (s : State) :
    body .inqClose s = { s with inqConsOpen := false, last := .returned .none } := rfl

/-- A load writes the memory, the phase and the codes; `loadBody_cases` says what. -/
@[simp] theorem body_load (img : Image) (s : State) :
    body (.load img) s = { s with
      mem := (loadBody img s).mem, phase := (loadBody img s).phase, failCode := (loadBody img s).failCode
      exitCode := (loadBody img s).exitCode, last := (loadBody img s).last } := by
  rcases loadBody_cases img s with ⟨-, h⟩ | ⟨bs, -, -, h⟩ | ⟨bs, -, -, h⟩ <;> rw [body, h] <;> rfl

@[simp] theorem body_start (ok : Bool) (s : State) :
    body (.start ok) s = { s with
      cpu := if ok then .active else s.cpu
      host := if ok then .active else s.host
      phase := if ok then .running else .failed
      failCode := if ok then s.failCode else some .hostSurface
      exitCode := if ok then s.exitCode else some s.cfg.exitSurface.val
      last := if ok then .returned .none else .faulted .hostSurface } := by
  cases ok <;> rfl

@[simp] theorem body_quit (s : State) :
    body .quit s = { s with host := .done, outqConsOpen := false, phase := .exiting, last := .returned .none } := rfl

@[simp] theorem body_procExit (s : State) :
    body .procExit s = { s with exitCode := some exitOk, phase := .exited, last := .returned .none } := rfl

end Sys2Proof.Proofs.Bodies

namespace Sys2Proof.Proofs.Transactions
open Sys2Proof Sys2Proof.Machine Sys2Proof.Proofs.Bodies

/-! ### Memory and ports -/

/-- Settles O14: the body of an enabled `MEM_RD` answers `MemRead` (R68). -/
theorem memRdReturnsByte : Obligations.MemRdReturnsByte := by
  intro s a hphase hcpu
  rw [exec_of_enabled (.memRd a) s rfl ((cpuEnabled_iff s).2 ⟨hphase, hcpu⟩), body_memRd, memRead]
  simp [inRange]

/-- A port reads as its constant, looked up in the order of R76, or as its stored byte. -/
theorem portRead_eq (s : State) (p : Port) :
    portRead s p =
      if p = s.cfg.ctsAddr then s.cfg.ctsVal
      else if p = s.cfg.lsrAddr then s.cfg.lsrVal
      else if p = s.cfg.tmrLoAddr ∨ p = s.cfg.tmrHiAddr then 0x00
      else Memory.get s.io p.toNat := by
  by_cases hcts : p = s.cfg.ctsAddr
  · simp [portRead, syntheticVal, hcts]
  by_cases hlsr : p = s.cfg.lsrAddr
  · simp only [portRead, syntheticVal, if_neg hcts, if_pos hlsr]
  by_cases hlo : p = s.cfg.tmrLoAddr
  · simp only [portRead, syntheticVal, if_neg hcts, if_neg hlsr, if_pos hlo, if_pos (Or.inl hlo), timerVal]
  by_cases hhi : p = s.cfg.tmrHiAddr
  · simp only [portRead, syntheticVal, if_neg hcts, if_neg hlsr, if_neg hlo, if_pos hhi, if_pos (Or.inr hhi), timerVal]
  · simp only [portRead, syntheticVal, if_neg hcts, if_neg hlsr, if_neg hlo, if_neg hhi, if_neg (not_or.2 ⟨hlo, hhi⟩)]

/-- Settles O19: the body of an enabled `IO_RD` answers `PortRead`. -/
theorem ioRdReturnsByte : Obligations.IoRdReturnsByte := by
  intro s p hphase hcpu
  rw [exec_of_enabled (.ioRd p) s rfl ((cpuEnabled_iff s).2 ⟨hphase, hcpu⟩), body_ioRd, portRead_eq]

/-- Settles O20: with the consumer there, or at another port, the body has no fault. -/
theorem ioWrStoresAndTransmits : Obligations.IoWrStoresAndTransmits := by
  intro s p v hphase hcpu hwf hopen
  have hfault : ¬ (p = s.cfg.txAddr ∧ s.outqConsOpen = false) := by
    rintro ⟨hp, hclosed⟩
    rw [hopen hp] at hclosed
    cases hclosed
  refine ⟨_, exec_of_enabled (.ioWr p v) s rfl ((cpuEnabled_iff s).2 ⟨hphase, hcpu⟩), ?_, ?_, fun x => ?_, ?_⟩
  · rw [body_ioWr, if_neg hfault, if_neg hfault]
  · rw [body_ioWr, if_neg hfault]
  · simpa using Memory.get_set s.io p.toNat v hwf x
  · by_cases hp : p = s.cfg.txAddr
    · simp [hp, hopen hp]
    · simp [hp]

/-- Settles O21: the two sends at a closed consumer. -/
theorem sendToClosedEndpointFaults : Obligations.SendToClosedEndpointFaults := by
  intro s v hphase
  refine ⟨fun hcpu hclosed => ?_, fun hhost hclosed => ?_⟩
  · rw [exec_of_enabled (.ioWr _ v) s rfl ((cpuEnabled_iff s).2 ⟨hphase, hcpu⟩), body_ioWr]
    simp [hclosed]
  · rw [exec_of_enabled (.inqSend v) s rfl ((hostEnabled_iff s).2 ⟨hphase, hhost⟩), body_inqSend]
    simp [hclosed]

/-! ### Queues -/

/-- Settles O26: an enabled receive at an open consumer comes to its body. -/
theorem outboundReceivesComplete : Obligations.OutboundReceivesComplete := by
  intro s hphase hhost hopen
  have henabled := (hostEnabled_iff s).2 ⟨hphase, hhost⟩
  rw [exec_of_enabled .outqTryrecv s hopen henabled, exec_of_enabled .outqRecv s hopen henabled]
  refine ⟨fun hq => ?_, fun b q hq => ⟨?_, ?_⟩⟩
  · rw [body_outqTryrecv, hq, received_nil, List.tail_nil, ← hq]
  · rw [body_outqTryrecv, hq, received_cons, List.tail_cons]
  · rw [body_outqRecv, hq, received_cons, List.tail_cons]

/-- Settles O27: the same for the inbound receives, which are the CPU's. -/
theorem inboundReceivesComplete : Obligations.InboundReceivesComplete := by
  intro s hphase hcpu hopen
  have henabled := (cpuEnabled_iff s).2 ⟨hphase, hcpu⟩
  rw [exec_of_enabled .inqTryrecv s hopen henabled, exec_of_enabled .inqRecv s hopen henabled]
  refine ⟨fun hq => ?_, fun b q hq => ⟨?_, ?_⟩⟩
  · rw [body_inqTryrecv, hq, received_nil, List.tail_nil, ← hq]
  · rw [body_inqTryrecv, hq, received_cons, List.tail_cons]
  · rw [body_inqRecv, hq, received_cons, List.tail_cons]

/-- Settles O28: an enabled `INQ_SEND` at an open consumer. -/
theorem inqSendEnqueues : Obligations.InqSendEnqueues := by
  intro s v hphase hhost hopen
  rw [exec_of_enabled (.inqSend v) s rfl ((hostEnabled_iff s).2 ⟨hphase, hhost⟩), body_inqSend, if_pos hopen,
    if_pos hopen, if_pos hopen]

/-- Settles O29: no close looks at the flag it clears. -/
theorem closesComplete : Obligations.ClosesComplete := by
  intro s hphase
  refine ⟨fun hhost => ?_, fun hcpu => ?_⟩
  · rw [exec_of_enabled .outqClose s rfl ((closeEnabled_iff s).2 ⟨hphase, hhost⟩), body_outqClose]
  · rw [exec_of_enabled .inqClose s rfl ((cpuEnabled_iff s).2 ⟨hphase, hcpu⟩), body_inqClose]

theorem terminal_eq_false {s : State} (hexited : s.phase ≠ .exited) (hfailed : s.phase ≠ .failed) :
    terminal s = false := by
  rw [Bool.eq_false_iff, ne_eq, terminal_iff]
  exact not_or.2 ⟨hexited, hfailed⟩

/-- Settles O30: outside the terminal phases a missing endpoint is a refusal, before anything else is looked at. -/
theorem receiveAtClosedEndpointIsRefused : Obligations.ReceiveAtClosedEndpointIsRefused := by
  intro s hexited hfailed
  have hterminal := terminal_eq_false hexited hfailed
  have hrefused : ∀ i, endpointOpen i s = false →
      exec i s = .next { s with refused := true, last := .refused .closedEndpoint } := fun i hclosed =>
    exec_of_closed i s (by rw [passesEndpoint, hclosed, hterminal, Bool.or_false])
  refine ⟨fun hclosed i hi => hrefused i ?_, fun hclosed i hi => hrefused i ?_⟩
  all_goals
    simp only [List.mem_cons, List.not_mem_nil, or_false] at hi
    rcases hi with rfl | rfl <;> exact hclosed

/-! ### Lifecycle -/

theorem body_load_tooLarge {bs : List Byte} {s : State} (h : s.cfg.total < bs.length) :
    body (.load (.bytes bs)) s = { s with
      phase := .failed, failCode := some (.imageTooLarge bs.length), exitCode := some s.cfg.exitTooLarge.val
      last := .faulted (.imageTooLarge bs.length) } := by
  rw [body, loadBody, if_pos h]
  rfl

theorem body_load_fits {bs : List Byte} {s : State} (h : bs.length ≤ s.cfg.total) :
    body (.load (.bytes bs)) s = { s with
      mem := Memory.setAll s.mem 0 bs, phase := .loaded, last := .returned .none } := by
  rw [body, loadBody, if_neg (Nat.not_lt.2 h)]
  rfl

/-- Settles O36: the copy of R107 on an image that fits. -/
theorem loadCopiesTheImage : Obligations.LoadCopiesTheImage := by
  intro s img hphase hwf hfits
  have hexec := exec_of_enabled (.load (.bytes img)) s rfl ((loadEnabled_iff s).2 hphase)
  rw [body_load_fits hfits] at hexec
  refine ⟨_, hexec, rfl, rfl, rfl, fun i h => ?_, fun i h => ?_⟩
  · rw [Memory.get_setAll img s.mem 0 hwf i, if_pos ⟨Nat.zero_le i, by omega⟩, Nat.sub_zero,
      List.getD_eq_getElem img 0 h]
  · rw [Memory.get_setAll img s.mem 0 hwf i, if_neg (by omega)]

/-- Settles O38: the two faults of `loadBody`. -/
theorem loadFailuresEndTheRun : Obligations.LoadFailuresEndTheRun := by
  intro s hphase
  have henabled := (loadEnabled_iff s).2 hphase
  refine ⟨exec_of_enabled (.load .unreadable) s rfl henabled, fun img hlarge => ?_⟩
  rw [exec_of_enabled (.load (.bytes img)) s rfl henabled, body_load_tooLarge hlarge]

/-- Settles O39: both answers of the surface. -/
theorem startStartsBothDomainsOrFails : Obligations.StartStartsBothDomainsOrFails := by
  intro s hphase
  have henabled := (startEnabled_iff s).2 hphase
  exact ⟨exec_of_enabled (.start true) s rfl henabled, exec_of_enabled (.start false) s rfl henabled⟩

/-- Settles O40: an enabled `QUIT`. -/
theorem quitShutsTheHostDown : Obligations.QuitShutsTheHostDown :=
  fun s hphase hhost => exec_of_enabled .quit s rfl ((quitEnabled_iff s).2 ⟨hphase, hhost⟩)

/-- Settles O41: `PROC_EXIT` needs the phase alone. -/
theorem procExitEndsTheRun : Obligations.ProcExitEndsTheRun :=
  fun s hphase => exec_of_enabled .procExit s rfl ((exitEnabled_iff s).2 hphase)

/-- Settles O37: `LOAD` at reset is enabled, and the reset memory is the empty store. -/
theorem stateAfterLoad : Obligations.StateAfterLoad := by
  intro c img hfits
  have hexec := exec_of_enabled (.load (.bytes img)) (State.resetWith c) rfl rfl
  rw [body_load_fits hfits] at hexec
  refine ⟨_, hexec, rfl, rfl, fun a => ?_⟩
  by_cases ha : a.toNat < c.total
  · rw [if_pos ha, memRead_inRange _ a ha, Memory.get_setAll img _ 0 rfl a.toNat]
    by_cases hin : a.toNat < img.length
    · rw [if_pos ⟨Nat.zero_le _, by omega⟩, Nat.sub_zero]
    · rw [if_neg (by omega), List.getD_eq_default img _ (by omega)]
      rfl
  · rw [if_neg ha, memRead_outOfRange _ a (Nat.not_lt.1 ha)]
    rfl

/-- Settles O43: R120's table, in the words of each condition's lemma. -/
theorem notEnabledHolds : Obligations.NotEnabledHolds := by
  intro i s hopen hcond
  have hpass : passesEndpoint i s = true := by
    rw [passesEndpoint, Bool.or_eq_true, terminal_iff]
    exact hopen
  refine exec_of_not_enabled i s hpass ?_
  rw [Bool.eq_false_iff]
  intro henabled
  cases i with
  | memRd _ | memWr _ _ | ioRd _ | ioWr _ _ | inqTryrecv | inqRecv | inqClose =>
    exact hcond ((cpuEnabled_iff s).1 henabled)
  | outqTryrecv | outqRecv | inqSend _ => exact hcond ((hostEnabled_iff s).1 henabled)
  | outqClose => exact hcond ((closeEnabled_iff s).1 henabled)
  | quit => exact hcond ((quitEnabled_iff s).1 henabled)
  | load _ => exact hcond ((loadEnabled_iff s).1 henabled)
  | start _ => exact hcond ((startEnabled_iff s).1 henabled)
  | procExit => exact hcond ((exitEnabled_iff s).1 henabled)

/-! ### Reset -/

/-- Settles O44: each reset value stands in `State.resetWith`. -/
theorem resetValues : Obligations.ResetValues :=
  ⟨rfl, fun _ => ⟨fun _ => rfl, fun _ => rfl, rfl, rfl, rfl, rfl, rfl, rfl, rfl, rfl, rfl, rfl⟩⟩

/-- Settles O49: both invariants look at reset values alone. -/
theorem invariantsAtReset : Obligations.InvariantsAtReset := fun _ => ⟨rfl, rfl⟩

end Sys2Proof.Proofs.Transactions

namespace Sys2Proof.Proofs.Writers
open Sys2Proof Sys2Proof.Machine Sys2Proof.Proofs.Bodies

/-! ### Which transactions write a field of the block

One lemma for each field: a body that changes it is one of these. -/

section
variable {i : Instr} {s : State}

theorem mem_writer (h : (body i s).mem ≠ s.mem) : (∃ a v, i = .memWr a v) ∨ ∃ img, i = .load img := by
  cases i with
  | memWr a v => exact .inl ⟨a, v, rfl⟩
  | load img => exact .inr ⟨img, rfl⟩
  | _ => simp at h

theorem io_writer (h : (body i s).io ≠ s.io) : ∃ p v, i = .ioWr p v := by
  cases i with
  | ioWr p v => exact ⟨p, v, rfl⟩
  | _ => simp at h

theorem outq_writer (h : (body i s).outq ≠ s.outq) :
    (∃ v, i = .ioWr s.cfg.txAddr v ∧ s.outqConsOpen = true) ∨ i = .outqTryrecv ∨ i = .outqRecv := by
  cases i with
  | ioWr p v =>
    by_cases hp : p = s.cfg.txAddr ∧ s.outqConsOpen = true
    · exact .inl ⟨v, by rw [hp.1], hp.2⟩
    · simp [hp] at h
  | outqTryrecv => exact .inr (.inl rfl)
  | outqRecv => exact .inr (.inr rfl)
  | _ => simp at h

theorem inq_writer (h : (body i s).inq ≠ s.inq) :
    (∃ v, i = .inqSend v ∧ s.inqConsOpen = true) ∨ i = .inqTryrecv ∨ i = .inqRecv := by
  cases i with
  | inqSend v =>
    by_cases ho : s.inqConsOpen = true
    · exact .inl ⟨v, rfl, ho⟩
    · simp [ho] at h
  | inqTryrecv => exact .inr (.inl rfl)
  | inqRecv => exact .inr (.inr rfl)
  | _ => simp at h

theorem outqConsOpen_writer (h : (body i s).outqConsOpen ≠ s.outqConsOpen) : i = .outqClose ∨ i = .quit := by
  cases i with
  | outqClose => exact .inl rfl
  | quit => exact .inr rfl
  | _ => simp at h

theorem inqConsOpen_writer (h : (body i s).inqConsOpen ≠ s.inqConsOpen) : i = .inqClose := by
  cases i with
  | inqClose => rfl
  | _ => simp at h

theorem cpu_writer (h : (body i s).cpu ≠ s.cpu) :
    i = .start true ∨ ∃ v, i = .ioWr s.cfg.txAddr v ∧ s.outqConsOpen = false := by
  cases i with
  | start ok =>
    cases ok with
    | true => exact .inl rfl
    | false => simp at h
  | ioWr p v =>
    by_cases hp : p = s.cfg.txAddr ∧ s.outqConsOpen = false
    · exact .inr ⟨v, by rw [hp.1], hp.2⟩
    · simp [hp] at h
  | _ => simp at h

theorem host_writer (h : (body i s).host ≠ s.host) :
    i = .start true ∨ i = .quit ∨ ∃ v, i = .inqSend v ∧ s.inqConsOpen = false := by
  cases i with
  | start ok =>
    cases ok with
    | true => exact .inl rfl
    | false => simp at h
  | quit => exact .inr (.inl rfl)
  | inqSend v =>
    cases ho : s.inqConsOpen with
    | true => simp [ho] at h
    | false => exact .inr (.inr ⟨v, rfl, rfl⟩)
  | _ => simp at h

theorem phase_writer (h : (body i s).phase ≠ s.phase) :
    (∃ img, i = .load img) ∨ (∃ ok, i = .start ok) ∨ i = .quit ∨ i = .procExit := by
  cases i with
  | load img => exact .inl ⟨img, rfl⟩
  | start ok => exact .inr (.inl ⟨ok, rfl⟩)
  | quit => exact .inr (.inr (.inl rfl))
  | procExit => exact .inr (.inr (.inr rfl))
  | _ => simp at h

theorem failCode_writer (h : (body i s).failCode ≠ s.failCode) : (∃ img, i = .load img) ∨ i = .start false := by
  cases i with
  | load img => exact .inl ⟨img, rfl⟩
  | start ok =>
    cases ok with
    | true => simp at h
    | false => exact .inr rfl
  | _ => simp at h

theorem exitCode_writer (h : (body i s).exitCode ≠ s.exitCode) :
    (∃ img, i = .load img) ∨ i = .start false ∨ i = .procExit := by
  cases i with
  | load img => exact .inl ⟨img, rfl⟩
  | start ok =>
    cases ok with
    | true => simp at h
    | false => exact .inr (.inl rfl)
  | procExit => exact .inr (.inr rfl)
  | _ => simp at h

end

@[simp] theorem body_refused (i : Instr) (s : State) : (body i s).refused = s.refused := by cases i <;> simp

@[simp] theorem body_cfg (i : Instr) (s : State) : (body i s).cfg = s.cfg := (body_sameInputs i s).1

/-- A field that neither a hold nor a refusal writes changes by a body alone. -/
theorem body_of_ne {α : Type} (f : State → α) {i : Instr} {s t : State} (h : exec i s = .next t) (hne : f t ≠ f s)
    (hhold : f (hold s) = f s) (hrefuse : f (refuse .closedEndpoint s) = f s) : enabled i s = true ∧ t = body i s := by
  rcases exec_cases h with ⟨-, rfl⟩ | ⟨-, -, rfl⟩ | ⟨-, hcase⟩
  · exact absurd hrefuse hne
  · exact absurd hhold hne
  · exact hcase

end Sys2Proof.Proofs.Writers

namespace Sys2Proof.Proofs.Frames
open Sys2Proof Sys2Proof.Machine Sys2Proof.Proofs.Bodies Sys2Proof.Proofs.Writers

/-! ### Reads and writes -/

/-- Settles O45: a read, run or held, writes `last` alone. -/
theorem readsChangeNothing : Obligations.ReadsChangeNothing := by
  intro s t a p h
  rcases h with h | h <;> rcases exec_cases_of_open rfl h with ⟨-, rfl⟩ | ⟨-, rfl⟩ <;> rfl

theorem memWr_frame {s t : State} {a : MemAddr} {v : Byte} (hwf : Memory.wf s.mem = true)
    (h : exec (.memWr a v) s = .next t) :
    (∀ x : MemAddr, x ≠ a → memRead t x = memRead s x) ∧ (∀ q : Port, portRead t q = portRead s q) ∧
      { t with mem := s.mem, last := s.last } = s := by
  rcases exec_cases_of_open rfl h with ⟨-, rfl⟩ | ⟨-, rfl⟩
  · exact ⟨fun _ _ => rfl, fun _ => rfl, rfl⟩
  · refine ⟨fun x hx => ?_, fun _ => rfl, rfl⟩
    exact (memRead_memWrite s a x v hwf).trans (if_neg fun hxa => hx hxa.1)

theorem ioWr_frame {s t : State} {p : Port} {v : Byte} (hwf : Memory.wf s.io = true)
    (h : exec (.ioWr p v) s = .next t) :
    (∀ q : Port, q ≠ p → portRead t q = portRead s q) ∧ (∀ x, x ≠ p.toNat → Memory.get t.io x = Memory.get s.io x) ∧
      { t with io := s.io, outq := s.outq, cpu := s.cpu, last := s.last } = s := by
  rcases exec_cases_of_open rfl h with ⟨-, rfl⟩ | ⟨-, rfl⟩
  · exact ⟨fun _ _ => rfl, fun _ _ => rfl, rfl⟩
  · have hio : (body (.ioWr p v) s).io = (portStore p v s).io := by simp
    refine ⟨fun q hq => ?_, fun x hx => ?_, by simp⟩
    · rw [portRead_congr hio (body_cfg _ s), portRead_portStore s p q v hwf, if_neg fun hqp => hq hqp.1]
    · rw [hio, portStore_io, Memory.get_set s.io p.toNat v hwf, if_neg hx]

/-- Settles O46: the frames of the two writes; what `IO_WR` does to `outq` and `cpu` by their writers. -/
theorem writeFrames : Obligations.WriteFrames := by
  refine ⟨fun s t a v hwf h => memWr_frame hwf h, fun s t p v hwf h => ?_⟩
  obtain ⟨hport, hcell, hrest⟩ := ioWr_frame hwf h
  have houtq : t.outq ≠ s.outq → p = s.cfg.txAddr ∧ s.outqConsOpen = true := by
    intro hne
    obtain ⟨-, rfl⟩ := body_of_ne State.outq h hne rfl rfl
    rcases outq_writer hne with ⟨w, hi, hopen⟩ | hi | hi <;> cases hi
    exact ⟨rfl, hopen⟩
  have hcpu : t.cpu ≠ s.cpu → p = s.cfg.txAddr ∧ s.outqConsOpen = false := by
    intro hne
    obtain ⟨-, rfl⟩ := body_of_ne State.cpu h hne rfl rfl
    rcases cpu_writer hne with hi | ⟨w, hi, hopen⟩ <;> cases hi
    exact ⟨rfl, hopen⟩
  refine ⟨fun x => ?_, hport, hcell, hrest, fun hp => ⟨?_, ?_⟩, fun hopen => ?_, fun hclosed => ?_⟩
  · exact memRead_congr (congrArg State.mem hrest) (congrArg State.cfg hrest) x
  · exact by_contra fun hne => hp (houtq hne).1
  · exact by_contra fun hne => hp (hcpu hne).1
  · exact by_contra fun hne => by simpa [hopen] using (hcpu hne).2
  · exact by_contra fun hne => by simpa [hclosed] using (houtq hne).2

/-! ### Queue transactions -/

/-- The seven queue transactions. -/
def IsQueueTxn (i : Instr) : Prop :=
  i ∈ [.outqTryrecv, .outqRecv, .outqClose, .inqTryrecv, .inqRecv, .inqClose] ∨ ∃ v, i = .inqSend v

theorem queueTxn_mem_io {i : Instr} {s t : State} (hi : IsQueueTxn i) (h : exec i s = .next t) :
    t.mem = s.mem ∧ t.io = s.io := by
  constructor
  · by_contra hne
    obtain ⟨-, rfl⟩ := body_of_ne State.mem h hne rfl rfl
    rcases mem_writer hne with ⟨a, v, rfl⟩ | ⟨img, rfl⟩ <;> simp [IsQueueTxn] at hi
  · by_contra hne
    obtain ⟨-, rfl⟩ := body_of_ne State.io h hne rfl rfl
    obtain ⟨p, v, rfl⟩ := io_writer hne
    simp [IsQueueTxn] at hi

theorem outboundReceive_frame {i : Instr} {s t : State} (hi : i ∈ [Instr.outqTryrecv, .outqRecv])
    (h : exec i s = .next t) : { t with outq := s.outq, refused := s.refused, last := s.last } = s := by
  simp only [List.mem_cons, List.not_mem_nil, or_false] at hi
  rcases exec_cases h with ⟨-, rfl⟩ | ⟨-, -, rfl⟩ | ⟨-, -, rfl⟩
  · rfl
  · rfl
  · rcases hi with rfl | rfl <;> simp

theorem inboundReceive_frame {i : Instr} {s t : State} (hi : i ∈ [Instr.inqTryrecv, .inqRecv])
    (h : exec i s = .next t) : { t with inq := s.inq, refused := s.refused, last := s.last } = s := by
  simp only [List.mem_cons, List.not_mem_nil, or_false] at hi
  rcases exec_cases h with ⟨-, rfl⟩ | ⟨-, -, rfl⟩ | ⟨-, -, rfl⟩
  · rfl
  · rfl
  · rcases hi with rfl | rfl <;> simp

theorem inqSend_frame {v : Byte} {s t : State} (h : exec (.inqSend v) s = .next t) :
    { t with inq := s.inq, host := s.host, last := s.last } = s ∧
      (s.inqConsOpen = true → t.host = s.host) ∧ (s.inqConsOpen = false → t.inq = s.inq) := by
  rcases exec_cases_of_open rfl h with ⟨-, rfl⟩ | ⟨-, rfl⟩
  · exact ⟨rfl, fun _ => rfl, fun _ => rfl⟩
  · refine ⟨by simp, fun hopen => ?_, fun hclosed => ?_⟩
    · simp [hopen]
    · simp [hclosed]

/-- Settles O47: memory and ports by their writers, the other fields one kind of queue transaction at a time. -/
theorem queueFrames : Obligations.QueueFrames := by
  intro i s t h
  have hcfg := (exec_sameInputs h).1
  refine ⟨fun x hi => memRead_congr (queueTxn_mem_io hi h).1 hcfg x,
    fun q hi => portRead_congr (queueTxn_mem_io hi h).2 hcfg q,
    fun hi => outboundReceive_frame hi h, fun hi => inboundReceive_frame hi h, ?_, ?_, ?_⟩
  · rintro rfl
    rcases exec_cases_of_open rfl h with ⟨-, rfl⟩ | ⟨-, rfl⟩ <;> rfl
  · rintro rfl
    rcases exec_cases_of_open rfl h with ⟨-, rfl⟩ | ⟨-, rfl⟩ <;> rfl
  · rintro ⟨v, rfl⟩
    exact inqSend_frame h

/-! ### Lifecycle transactions -/

/-- `LOAD` writes memory, phase and codes, and of the memory only the addresses of an image that fits. -/
theorem load_frame {s t : State} {img : Image} (hwf : Memory.wf s.mem = true) (h : exec (.load img) s = .next t) :
    (∀ x : MemAddr, (∀ bs, img = .bytes bs → bs.length ≤ s.cfg.total → bs.length ≤ x.toNat) →
      memRead t x = memRead s x) ∧
    { t with mem := s.mem, phase := s.phase, failCode := s.failCode, exitCode := s.exitCode, last := s.last } = s := by
  rcases exec_cases_of_open rfl h with ⟨-, rfl⟩ | ⟨-, rfl⟩
  · exact ⟨fun _ _ => rfl, rfl⟩
  · refine ⟨fun x hx => ?_, by simp⟩
    rcases loadBody_cases img s with ⟨-, hb⟩ | ⟨bs, -, -, hb⟩ | ⟨bs, himg, hfits, hb⟩ <;> rw [body, hb]
    · rfl
    · rfl
    · have hpast := hx bs himg hfits
      have hget : Memory.get (Memory.setAll s.mem 0 bs) x.toNat = Memory.get s.mem x.toNat := by
        rw [Memory.get_setAll bs s.mem 0 hwf, if_neg (by omega)]
      simp [memRead, hget]

/-- Settles O48: each lifecycle transaction, held or run. -/
theorem lifecycleFrames : Obligations.LifecycleFrames := by
  refine ⟨fun s t img hwf h => ?_, fun s t ok h => ?_, fun s t h => ?_, fun s t h => ?_⟩
  · obtain ⟨hmem, hrest⟩ := load_frame hwf h
    exact ⟨fun q => portRead_congr (congrArg State.io hrest) (congrArg State.cfg hrest) q, hmem, hrest⟩
  · rcases exec_cases_of_open rfl h with ⟨-, rfl⟩ | ⟨-, rfl⟩
    · exact ⟨fun _ => rfl, fun _ => rfl, rfl⟩
    · cases ok <;> exact ⟨fun _ => rfl, fun _ => rfl, rfl⟩
  · rcases exec_cases_of_open rfl h with ⟨-, rfl⟩ | ⟨-, rfl⟩ <;> exact ⟨fun _ => rfl, fun _ => rfl, rfl⟩
  · rcases exec_cases_of_open rfl h with ⟨-, rfl⟩ | ⟨-, rfl⟩ <;> exact ⟨fun _ => rfl, fun _ => rfl, rfl⟩

/-! ### Faults -/

theorem received_ne_faulted {q : List Byte} {e : TxnResult} {f : BlockFault} (he : e ≠ .faulted f) :
    received q e ≠ .faulted f := by
  cases q with
  | nil => exact he
  | cons b q => exact nofun

/-- Settles O55: a hold and a refusal say so in `last`, and of the bodies these five end in a fault. -/
theorem onlyListedTransactionsFault : Obligations.OnlyListedTransactionsFault := by
  intro i s t f h hlast
  rcases exec_cases h with ⟨-, rfl⟩ | ⟨-, -, rfl⟩ | ⟨-, -, rfl⟩
  · cases hlast
  · cases hlast
  · cases i with
    | load img =>
      rcases loadBody_cases img s with ⟨rfl, hb⟩ | ⟨bs, rfl, hlarge, hb⟩ | ⟨bs, -, -, hb⟩ <;>
        rw [body, hb] at hlast <;> cases hlast
      · exact .inl ⟨rfl, rfl, rfl⟩
      · exact .inr (.inl ⟨bs, rfl, hlarge, rfl, rfl⟩)
    | start ok =>
      cases ok <;> cases hlast
      exact .inr (.inr (.inl ⟨rfl, rfl, rfl⟩))
    | ioWr p v =>
      by_cases hp : p = s.cfg.txAddr ∧ s.outqConsOpen = false
      · rw [body_ioWr] at hlast
        simp only [if_pos hp] at hlast
        cases hlast
        exact .inr (.inr (.inr (.inl ⟨v, by rw [hp.1], hp.2, rfl, rfl⟩)))
      · simp [hp] at hlast
    | inqSend v =>
      cases ho : s.inqConsOpen with
      | true => simp [ho] at hlast
      | false =>
        simp only [body_inqSend, ho, Bool.false_eq_true, if_false] at hlast
        cases hlast
        exact .inr (.inr (.inr (.inr ⟨v, rfl, rfl, rfl, rfl⟩)))
    | outqTryrecv | outqRecv | inqTryrecv | inqRecv => simp [received_ne_faulted] at hlast
    | memRd _ | memWr _ _ | ioRd _ | outqClose | inqClose | quit | procExit => cases hlast

end Sys2Proof.Proofs.Frames

namespace Sys2Proof.Proofs.Independence
open Sys2Proof Sys2Proof.Machine Sys2Proof.Proofs.Bodies Sys2Proof.Proofs.Writers

/-! ### A change that a transaction does not see -/

/-- A change of the state that neither the conditions nor the three outcomes of a transaction depend on can be made
before it or after it. -/
theorem exec_comm {i : Instr} {s t : State} (u : State → State) (h : exec i s = .next t)
    (hpass : passesEndpoint i (u s) = passesEndpoint i s) (henabled : enabled i (u s) = enabled i s)
    (hrefuse : refuse .closedEndpoint (u s) = u (refuse .closedEndpoint s)) (hhold : hold (u s) = u (hold s))
    (hbody : body i (u s) = u (body i s)) : exec i (u s) = .next (u t) := by
  rw [exec_eq, hpass, henabled]
  rcases exec_cases h with ⟨hp, rfl⟩ | ⟨hp, he, rfl⟩ | ⟨hp, he, rfl⟩
  · rw [if_neg (by simp [hp]), hrefuse]
  · rw [if_pos hp, if_neg (by simp [he]), hhold]
  · rw [if_pos hp, if_pos he, hbody]

/-- A load looks at the parameters alone, and ends in one of two operations. -/
theorem loadBody_comm {s : State} (u : State → State) (img : Image) (hcfg : (u s).cfg = s.cfg)
    (hfail : ∀ f, failStartup f (u s) = u (failStartup f s))
    (hload : ∀ bs, respond .none (loadImage bs (u s)) = u (respond .none (loadImage bs s))) :
    loadBody img (u s) = u (loadBody img s) := by
  cases img with
  | unreadable => exact hfail .imageUnreadable
  | bytes bs =>
    rw [loadBody, loadBody, hcfg]
    by_cases hlarge : s.cfg.total < bs.length
    · rw [if_pos hlarge, if_pos hlarge]
      exact hfail _
    · rw [if_neg hlarge, if_neg hlarge]
      exact hload bs

/-- Another inbound queue, with another endpoint. -/
def withInbound (q : List Byte) (o : Bool) (s : State) : State := { s with inq := q, inqConsOpen := o }

/-- Another outbound queue, with another endpoint. -/
def withOutbound (q : List Byte) (o : Bool) (s : State) : State := { s with outq := q, outqConsOpen := o }

/-- A change that does nothing before such a transaction does nothing after it. -/
theorem fixed_of_comm {i : Instr} {s t : State} {u : State → State} (h : exec i s = .next t)
    (hcomm : exec i (u s) = .next (u t)) (hfixed : u s = s) : u t = t := by
  rw [hfixed, h] at hcomm
  injection hcomm with hcomm
  exact hcomm.symm

theorem inbound_untouched {i : Instr} {s t : State} (h : exec i s = .next t)
    (hcomm : ∀ q o, exec i (withInbound q o s) = .next (withInbound q o t)) :
    t.inq = s.inq ∧ t.inqConsOpen = s.inqConsOpen := by
  have hfixed := fixed_of_comm h (hcomm s.inq s.inqConsOpen) rfl
  exact ⟨(congrArg State.inq hfixed.symm :), (congrArg State.inqConsOpen hfixed.symm :)⟩

theorem outbound_untouched {i : Instr} {s t : State} (h : exec i s = .next t)
    (hcomm : ∀ q o, exec i (withOutbound q o s) = .next (withOutbound q o t)) :
    t.outq = s.outq ∧ t.outqConsOpen = s.outqConsOpen := by
  have hfixed := fixed_of_comm h (hcomm s.outq s.outqConsOpen) rfl
  exact ⟨(congrArg State.outq hfixed.symm :), (congrArg State.outqConsOpen hfixed.symm :)⟩

/-- Settles O32: no body on one queue mentions the other. -/
theorem queuesAreIndependent : Obligations.QueuesAreIndependent := by
  refine ⟨fun i hi s t q o h => ?_, fun p v s t q o h => ?_, fun i hi s t q o h => ?_, fun v s t q o h => ?_⟩
  · have hcomm : ∀ q o, exec i (withInbound q o s) = .next (withInbound q o t) := by
      intro q o
      simp only [List.mem_cons, List.not_mem_nil, or_false] at hi
      rcases hi with rfl | rfl | rfl | rfl <;>
        exact exec_comm (withInbound q o) h rfl rfl rfl rfl (by simp [withInbound])
    obtain ⟨hq, ho⟩ := inbound_untouched h hcomm
    exact ⟨hq, ho, hcomm q o⟩
  · have hcomm : ∀ q o, exec (.ioWr p v) (withInbound q o s) = .next (withInbound q o t) := fun q o =>
      exec_comm (withInbound q o) h rfl rfl rfl rfl (by simp [withInbound])
    obtain ⟨hq, ho⟩ := inbound_untouched h hcomm
    exact ⟨hq, ho, hcomm q o⟩
  · have hcomm : ∀ q o, exec i (withOutbound q o s) = .next (withOutbound q o t) := by
      intro q o
      simp only [List.mem_cons, List.not_mem_nil, or_false] at hi
      rcases hi with rfl | rfl | rfl <;>
        exact exec_comm (withOutbound q o) h rfl rfl rfl rfl (by simp [withOutbound])
    obtain ⟨hq, ho⟩ := outbound_untouched h hcomm
    exact ⟨hq, ho, hcomm q o⟩
  · have hcomm : ∀ q o, exec (.inqSend v) (withOutbound q o s) = .next (withOutbound q o t) := fun q o =>
      exec_comm (withOutbound q o) h rfl rfl rfl rfl (by simp [withOutbound])
    obtain ⟨hq, ho⟩ := outbound_untouched h hcomm
    exact ⟨hq, ho, hcomm q o⟩

/-- Settles O56: the bodies of the engine's transactions do not mention `inq`. -/
theorem inboundQueueIsInvisibleToTheEngine : Obligations.InboundQueueIsInvisibleToTheEngine := by
  intro i s t q hi h
  have hcomm : ∀ q o, exec i (withInbound q o s) = .next (withInbound q o t) := by
    intro q o
    cases i with
    | memRd _ | memWr _ _ | ioRd _ | ioWr _ _ =>
      exact exec_comm (withInbound q o) h rfl rfl rfl rfl (by simp [withInbound, memRead, portRead])
    | _ => simp [cpuAgentIssues] at hi
  obtain ⟨hq, ho⟩ := inbound_untouched h hcomm
  exact ⟨hq, (hcomm q s.inqConsOpen).trans (by rw [← ho]; rfl)⟩

end Sys2Proof.Proofs.Independence

namespace Sys2Proof.Proofs.BlockingReceive
open Sys2Proof Sys2Proof.Machine Sys2Proof.Proofs.Bodies Sys2Proof.Proofs.Writers

theorem ended_of_phase {s : State} (h : s.phase = .running ∨ s.phase = .exiting) : ended s = none := by
  rw [ended_eq_none]
  rcases h with h | h <;> rw [h] <;> exact ⟨nofun, nofun⟩

/-- A transmit that returned did so in a body, which leaves the lifecycle and the endpoint alone and the byte at the
tail of the queue. -/
theorem transmit_returned {s t : State} {v : Byte} (h : exec (.ioWr s.cfg.txAddr v) s = .next t)
    (hlast : t.last = .returned .none) :
    t.outq = s.outq ++ [v] ∧ t.outqConsOpen = s.outqConsOpen ∧ t.phase = s.phase ∧ t.host = s.host := by
  rcases exec_cases_of_open rfl h with ⟨-, rfl⟩ | ⟨-, rfl⟩
  · cases hlast
  · cases ho : s.outqConsOpen with
    | true => simp [ho]
    | false => simp [ho] at hlast

theorem inqSend_returned {s t : State} {v : Byte} (h : exec (.inqSend v) s = .next t)
    (hlast : t.last = .returned .none) :
    t.inq = s.inq ++ [v] ∧ t.inqConsOpen = s.inqConsOpen ∧ t.phase = s.phase ∧ t.cpu = s.cpu := by
  rcases exec_cases_of_open rfl h with ⟨-, rfl⟩ | ⟨-, rfl⟩
  · cases hlast
  · cases ho : s.inqConsOpen with
    | true => simp [ho]
    | false => simp [ho] at hlast

/-- Only a transmit at an open endpoint puts a byte on an empty outbound queue. -/
theorem transmit_of_outq_ne_nil {i : Instr} {s t : State} (hq : s.outq = []) (h : exec i s = .next t)
    (hne : t.outq ≠ []) : ∃ v, i = .ioWr s.cfg.txAddr v ∧ t.last = .returned .none := by
  rw [← hq] at hne
  obtain ⟨-, rfl⟩ := body_of_ne State.outq h hne rfl rfl
  rcases outq_writer hne with ⟨v, rfl, hopen⟩ | rfl | rfl
  · exact ⟨v, rfl, by simp [hopen]⟩
  · simp [hq] at hne
  · simp [hq] at hne

theorem inqSend_of_inq_ne_nil {i : Instr} {s t : State} (hq : s.inq = []) (h : exec i s = .next t)
    (hne : t.inq ≠ []) : ∃ v, i = .inqSend v ∧ t.last = .returned .none := by
  rw [← hq] at hne
  obtain ⟨-, rfl⟩ := body_of_ne State.inq h hne rfl rfl
  rcases inq_writer hne with ⟨v, rfl, hopen⟩ | rfl | rfl
  · exact ⟨v, rfl, by simp [hopen]⟩
  · simp [hq] at hne
  · simp [hq] at hne

/-- Settles O31: the hold is the receive's body on an empty queue; the writers of the queue say what lifts it. -/
theorem blockingReceiveHoldsUntilEnqueue : Obligations.BlockingReceiveHoldsUntilEnqueue := by
  intro s hphase
  refine ⟨fun hhost hopen hq => ⟨?_, ended_of_phase hphase, fun i t h => transmit_of_outq_ne_nil hq h,
      fun v t h hlast => ?_⟩,
    fun hcpu hopen hq => ⟨?_, ended_of_phase hphase, fun i t h => inqSend_of_inq_ne_nil hq h, fun v t h hlast => ?_⟩⟩
  · rw [exec_of_enabled .outqRecv s hopen ((hostEnabled_iff s).2 ⟨hphase, hhost⟩), body_outqRecv, hq, received_nil,
      List.tail_nil, ← hq]
  · obtain ⟨htq, hto, htp, hth⟩ := transmit_returned h hlast
    rw [← hto] at hopen
    rw [← htp] at hphase
    rw [exec_of_enabled .outqRecv t hopen ((hostEnabled_iff t).2 ⟨hphase, hth.trans hhost⟩), body_outqRecv, htq, hq,
      List.nil_append, received_cons, List.tail_cons]
  · rw [exec_of_enabled .inqRecv s hopen ((cpuEnabled_iff s).2 ⟨hphase, hcpu⟩), body_inqRecv, hq, received_nil,
      List.tail_nil, ← hq]
  · obtain ⟨htq, hto, htp, htc⟩ := inqSend_returned h hlast
    rw [← hto] at hopen
    rw [← htp] at hphase
    rw [exec_of_enabled .inqRecv t hopen ((cpuEnabled_iff t).2 ⟨hphase, htc.trans hcpu⟩), body_inqRecv, htq, hq,
      List.nil_append, received_cons, List.tail_cons]

end Sys2Proof.Proofs.BlockingReceive

namespace Sys2Proof.Proofs.Steps
open Sys2Proof Sys2Proof.Machine Sys2Proof.Proofs.Bodies Sys2Proof.Proofs.Writers

/-! ### The four kinds of step -/

theorem step_config {s : State} (hc : configValid s.cfg = false) : step s = .next (refusedTurn .config s) := by
  rw [step, runTurn, hc, if_neg Bool.false_ne_true]

theorem step_idle {s : State} (hc : configValid s.cfg = true) (he : ended s = none) (hf : s.fetched = .idle) :
    step s = .next (idleTurn s) := by
  simp only [step, runTurn, hc, if_true, he, hf]

theorem step_refused {s : State} {r : RefuseReason} (hc : configValid s.cfg = true) (he : ended s = none)
    (hf : s.fetched = .refused r) : step s = .next (refusedTurn r s) := by
  simp only [step, runTurn, hc, if_true, he, hf]

/-- A refused turn sets `refused` and drops the request (R136; log entry 6). -/
theorem refusedTurn_eq (r : RefuseReason) (s : State) :
    refusedTurn r s =
      { s.takeTurn with refused := true, last := .refused r }.setTxns s.turn (s.txns s.turn).tail := by
  rw [refusedTurn, retire_done _ _ (by simp)]
  cases s.turn <;> rfl

/-- No transaction writes what the agents have issued. -/
theorem exec_txns {i : Instr} {s t : State} (h : exec i s = .next t) (a : Agent) : t.txns a = s.txns a := by
  obtain ⟨-, hcpu, hhost, hproc, -⟩ := exec_sameInputs h
  cases a with
  | cpu => exact hcpu
  | host => exact hhost
  | proc => exact hproc

theorem fetched_of_check {s : State} {r : Request} {rs : List Request} (hs : silenced s s.turn = false)
    (ht : s.txns s.turn = r :: rs) : s.fetched = checkRequest s.cfg s.turn r := by
  simp only [State.fetched, hs, ht, Bool.false_eq_true, if_false]

/-! ### One step (R42, R58, R59, R132, R136) -/

/-- Settles O7: the transaction is fetched, and retired unless it held. -/
theorem stepRunsDecodedTransaction : Obligations.StepRunsDecodedTransaction := by
  intro s r rs i hc hexited hfailed hs ht hd ho
  obtain ⟨u, hu⟩ := exec_total i s.takeTurn
  refine ⟨u, hu, ?_⟩
  rw [step_run hc ((ended_eq_none s).2 ⟨hexited, hfailed⟩) (fetched_of_decode hs ht hd ho) hu, State.retire,
    exec_txns hu, txns_takeTurn, ht, List.tail_cons]

/-- Settles O8: the check of the request meets the decoder's error. -/
theorem invalidWordIsRefused : Obligations.InvalidWordIsRefused := by
  intro s r rs e hc hexited hfailed hs ht hd
  have hf : s.fetched = .refused .invalid := by rw [fetched_of_check hs ht, checkRequest, hd]
  rw [step_refused hc ((ended_eq_none s).2 ⟨hexited, hfailed⟩) hf, refusedTurn_eq, ht, List.tail_cons]

/-- Settles O9: the word is valid, and the check of its issuer fails. -/
theorem wrongIssuerIsRefused : Obligations.WrongIssuerIsRefused := by
  intro s r rs i hc hexited hfailed hs ht hd ho
  have hf : s.fetched = .refused .notOwner := by
    rw [fetched_of_check hs ht, checkRequest, hd]
    exact if_neg ho
  rw [step_refused hc ((ended_eq_none s).2 ⟨hexited, hfailed⟩) hf, refusedTurn_eq, ht, List.tail_cons]

/-- Settles O11: the configuration is looked at before all else. -/
theorem refusedConfigurationHasNoEffect : Obligations.RefusedConfigurationHasNoEffect := by
  intro s hc
  rw [step_config hc, refusedTurn_eq]

/-- Settles O12: `ended` names the fault of each terminal phase, and is none in the others. -/
theorem terminalPhasesHaveNoStep : Obligations.TerminalPhasesHaveNoStep := by
  intro s hc
  refine ⟨fun h => ?_, fun h => ?_, fun hexited hfailed => step_total s (.inr ((ended_eq_none s).2 ⟨hexited, hfailed⟩))⟩
  · simp only [step, runTurn, hc, if_true, ended, h]
  · simp only [step, runTurn, hc, if_true, ended, h]

/-- Settles O13: a silenced agent's turn fetches nothing. -/
theorem faultedDomainIssuesNothing : Obligations.FaultedDomainIssuesNothing := by
  intro s hc hexited hfailed hfaulted
  have hs : silenced s s.turn = true := by
    rcases hfaulted with ⟨hturn, f, hf⟩ | ⟨hturn, f, hf⟩ <;> rw [hturn, silenced] <;> simp only [hf]
  have hfetched : s.fetched = .idle := by rw [State.fetched, hs, if_pos rfl]
  rw [step_idle hc ((ended_eq_none s).2 ⟨hexited, hfailed⟩) hfetched, idleTurn]

/-- Settles O10: the conditions of `configValid`, the ports pair by pair. -/
theorem acceptedConfigurations : Obligations.AcceptedConfigurations := by
  intro c
  have hports : portsDistinct c = true ↔
      c.txAddr ≠ c.ctsAddr ∧ c.txAddr ≠ c.lsrAddr ∧ c.txAddr ≠ c.tmrLoAddr ∧ c.txAddr ≠ c.tmrHiAddr ∧
      c.ctsAddr ≠ c.lsrAddr ∧ c.ctsAddr ≠ c.tmrLoAddr ∧ c.ctsAddr ≠ c.tmrHiAddr ∧
      c.lsrAddr ≠ c.tmrLoAddr ∧ c.lsrAddr ≠ c.tmrHiAddr ∧ c.tmrLoAddr ≠ c.tmrHiAddr := by
    simp [portsDistinct, and_assoc]
  simp only [configValid, Bool.and_eq_true, decide_eq_true_eq, beq_iff_eq, hports, and_assoc]
  rfl

/-! ### A step, as the block sees it -/

/-- The block's part of the state: the inputs and the output of the model blanked out. -/
def block (s : State) : State :=
  { s with cpuTxns := [], hostTxns := [], procTxns := [], sched := [], draws := 0, last := .idle }

theorem block_retire (a : Agent) (s : State) : block (s.retire a) = block s := by
  rw [retire_eq]
  rfl

/-- No transaction looks at the turns. -/
theorem body_takeTurn (i : Instr) (s : State) : body i s.takeTurn = (body i s).takeTurn := by
  cases i with
  | memRd _ | ioRd _ => rfl
  | load img => exact Independence.loadBody_comm State.takeTurn img rfl (fun _ => rfl) (fun _ => rfl)
  | _ => simp [State.takeTurn]

theorem exec_takeTurn {i : Instr} {s u : State} (h : exec i s = .next u) : exec i s.takeTurn = .next u.takeTurn :=
  Independence.exec_comm State.takeTurn h (by cases i <;> rfl) (by cases i <;> rfl) rfl rfl (body_takeTurn i s)

theorem nextTxn_eq_some {s : State} {i : Instr} (hc : configValid s.cfg = true) (he : ended s = none)
    (hf : s.fetched = .run i) : s.nextTxn = some i := by
  rw [State.nextTxn, if_pos ⟨hc, he⟩, hf]

theorem nextTxn_eq_none {s : State} (h : ∀ i, configValid s.cfg = true → ended s = none → s.fetched ≠ .run i) :
    s.nextTxn = none := by
  unfold State.nextTxn
  split
  · rename_i hrun
    cases hf : s.fetched with
    | run i => exact absurd hf (h i hrun.1 hrun.2)
    | idle => rfl
    | refused r => rfl
  · rfl

theorem fetched_of_nextTxn {s : State} {i : Instr} (h : s.nextTxn = some i) :
    configValid s.cfg = true ∧ ended s = none ∧ s.fetched = .run i := by
  by_contra hnot
  rw [nextTxn_eq_none] at h
  · cases h
  · intro j hc he hf
    rw [nextTxn_eq_some hc he hf] at h
    cases h
    exact hnot ⟨hc, he, hf⟩

/-- What a step does to the block: nothing, a refusal, or a transaction of the agent whose turn it is. -/
theorem step_effect {s t : State} (h : step s = .next t) :
    (s.nextTxn = none ∧ block t = block s) ∨
    (s.nextTxn = none ∧ ∃ r, t.last = .refused r ∧ block t = block (refuse r s)) ∨
    (∃ i u, s.nextTxn = some i ∧ issuer i = s.turn ∧ exec i s = .next u ∧ t.last = u.last ∧ block t = block u) := by
  rcases step_cases h with ⟨hc, rfl⟩ | ⟨hc, he, hf, rfl⟩ | ⟨r, hc, he, hf, rfl⟩ | ⟨i, u, hc, he, hf, hu, rfl⟩
  · refine .inr (.inl ⟨nextTxn_eq_none fun i hc' => ?_, .config, rfl, ?_⟩)
    · rw [hc] at hc'
      cases hc'
    · rw [refusedTurn, block_retire]
      rfl
  · exact .inl ⟨nextTxn_eq_none fun i _ _ => by simp [hf], rfl⟩
  · refine .inr (.inl ⟨nextTxn_eq_none fun i _ _ => by simp [hf], r, rfl, ?_⟩)
    rw [refusedTurn, block_retire]
    rfl
  · obtain ⟨v, hv⟩ := exec_total i s
    rw [exec_takeTurn hv] at hu
    cases hu
    refine .inr (.inr ⟨i, v, nextTxn_eq_some hc he hf, (fetched_run hf).2.1, hv, retire_last _ _, ?_⟩)
    rw [block_retire]
    rfl

/-- The same with the three outcomes of the transaction in place: nothing, a refusal, or an enabled body. -/
theorem step_body {s t : State} (h : step s = .next t) :
    block t = block s ∨
    (∃ r, t.last = .refused r ∧ block t = block (refuse r s)) ∨
    (∃ i, s.nextTxn = some i ∧ issuer i = s.turn ∧ enabled i s = true ∧ t.last = (body i s).last ∧
      block t = block (body i s)) := by
  rcases step_effect h with ⟨-, hb⟩ | ⟨-, hr⟩ | ⟨i, u, hn, ho, hu, hl, hb⟩
  · exact .inl hb
  · exact .inr (.inl hr)
  · rcases exec_cases hu with ⟨-, rfl⟩ | ⟨-, -, rfl⟩ | ⟨-, he, rfl⟩
    · exact .inr (.inl ⟨_, hl, hb⟩)
    · exact .inl hb
    · exact .inr (.inr ⟨i, hn, ho, he, hl, hb⟩)

/-- A property of the block that no refusal touches and every enabled body keeps is kept by every step. -/
theorem step_keeps (P : State → Prop) (hblock : ∀ s, P (block s) = P s) (hrefuse : ∀ r s, P s → P (refuse r s))
    {s t : State} (hbody : ∀ i, s.nextTxn = some i → enabled i s = true → P (body i s)) (h : step s = .next t)
    (hs : P s) : P t := by
  rw [← hblock t]
  rcases step_body h with hb | ⟨r, -, hb⟩ | ⟨i, hn, -, he, -, hb⟩ <;> rw [hb, hblock]
  · exact hs
  · exact hrefuse r s hs
  · exact hbody i hn he

/-- A field of the block that no refusal writes changes by an enabled body alone, at its owner's turn. -/
theorem step_writer {α : Type} (f : State → α) (hblock : ∀ s, f (block s) = f s)
    (hrefuse : ∀ r s, f (refuse r s) = f s) {s t : State} (h : step s = .next t) (hne : f t ≠ f s) :
    ∃ i, s.nextTxn = some i ∧ issuer i = s.turn ∧ enabled i s = true ∧ f (body i s) ≠ f s := by
  rw [← hblock t] at hne
  rcases step_body h with hb | ⟨r, -, hb⟩ | ⟨i, hn, ho, he, -, hb⟩ <;> rw [hb, hblock] at hne
  · exact absurd rfl hne
  · exact absurd (hrefuse r s) hne
  · exact ⟨i, hn, ho, he, hne⟩

end Sys2Proof.Proofs.Steps

namespace Sys2Proof.Proofs.Invariants
open Sys2Proof Sys2Proof.Machine Sys2Proof.Proofs.Bodies Sys2Proof.Proofs.Writers Sys2Proof.Proofs.Steps

/-! ### The byte stores (R17, R18) -/

theorem storesWf_iff (s : State) :
    storesWf s = true ↔
      (Memory.wf s.mem = true ∧ Memory.below s.cfg.total s.mem = true) ∧
        Memory.wf s.io = true ∧ Memory.below 65536 s.io = true := by
  simp [storesWf, and_assoc]

theorem storesWf_memWr {s : State} (a : MemAddr) (v : Byte)
    (h : Memory.wf s.mem = true ∧ Memory.below s.cfg.total s.mem = true) :
    Memory.wf (memWrite a v s).mem = true ∧ Memory.below s.cfg.total (memWrite a v s).mem = true := by
  rw [memWrite_mem]
  by_cases ha : inRange s.cfg a = true
  · rw [if_pos ha]
    exact ⟨Memory.wf_set _ _ _ h.1, Memory.below_set _ _ _ _ (of_decide_eq_true ha) h.2⟩
  · rw [if_neg ha]
    exact h

theorem storesWf_load {s : State} (img : Image)
    (h : Memory.wf s.mem = true ∧ Memory.below s.cfg.total s.mem = true) :
    Memory.wf (loadBody img s).mem = true ∧ Memory.below s.cfg.total (loadBody img s).mem = true := by
  rcases loadBody_cases img s with ⟨-, hb⟩ | ⟨bs, -, -, hb⟩ | ⟨bs, -, hfits, hb⟩ <;> rw [hb]
  · exact h
  · exact h
  · exact ⟨Memory.wf_setAll bs s.mem 0 h.1, Memory.below_setAll _ bs s.mem 0 (by omega) h.2⟩

/-- The bodies write the stores through `Memory.set` and `Memory.setAll`, at addresses they have checked. -/
theorem storesWf_body (i : Instr) {s : State} (h : storesWf s = true) : storesWf (body i s) = true := by
  rw [storesWf_iff] at h ⊢
  obtain ⟨hmem, hwf, hbelow⟩ := h
  cases i with
  | memWr a v => exact ⟨storesWf_memWr a v hmem, hwf, hbelow⟩
  | load img =>
    rw [body_load]
    exact ⟨storesWf_load img hmem, hwf, hbelow⟩
  | ioWr p v =>
    rw [body_ioWr]
    exact ⟨hmem, Memory.wf_set _ _ _ hwf, Memory.below_set _ _ _ _ p.isLt hbelow⟩
  | _ => simpa using ⟨hmem, hwf, hbelow⟩

/-- Settles O50: refusals leave the stores alone, and every body keeps their form. -/
theorem stepsKeepStoresCanonical : Obligations.StepsKeepStoresCanonical :=
  fun _ _ hs h => step_keeps (fun s => storesWf s = true) (fun _ => rfl) (fun _ _ h => h)
    (fun i _ _ => storesWf_body i hs) h hs

/-! ### The lifecycle (R27, R28) -/

/-- In `RUNNING` and `EXITING` the lifecycle invariant looks at the domains, the endpoints and the codes alone. -/
theorem lifecycleInv_congr {s t : State} (hrun : s.phase = .running ∨ s.phase = .exiting) (hphase : t.phase = s.phase)
    (hcpu : t.cpu = s.cpu) (hhost : t.host = s.host) (hout : t.outqConsOpen = s.outqConsOpen)
    (hin : t.inqConsOpen = s.inqConsOpen) (hfail : t.failCode = s.failCode) (hexit : t.exitCode = s.exitCode) :
    lifecycleInv t = lifecycleInv s := by
  rcases hrun with h | h <;>
    simp only [lifecycleInv, phaseConsistent, faultsJustified, hphase, hcpu, hhost, hout, hin, hfail, hexit, h]

theorem lifecycleInv_ioWr {p : Port} {v : Byte} {s : State} (he : cpuEnabled s = true) (h : lifecycleInv s = true) :
    lifecycleInv (body (.ioWr p v) s) = true := by
  obtain ⟨hrun, hcpu⟩ := (cpuEnabled_iff s).1 he
  by_cases hfault : p = s.cfg.txAddr ∧ s.outqConsOpen = false
  · rcases hrun with hphase | hphase <;> simp_all [lifecycleInv, phaseConsistent, faultsJustified]
  · rw [lifecycleInv_congr hrun] <;> simp [hfault, h]

theorem lifecycleInv_inqSend {v : Byte} {s : State} (he : hostEnabled s = true) (h : lifecycleInv s = true) :
    lifecycleInv (body (.inqSend v) s) = true := by
  obtain ⟨hrun, hhost⟩ := (hostEnabled_iff s).1 he
  cases hopen : s.inqConsOpen with
  | true => rw [lifecycleInv_congr hrun] <;> simp [hopen, h]
  | false =>
    rcases hrun with hphase | hphase <;> simp_all [lifecycleInv, phaseConsistent, faultsJustified]

theorem lifecycleInv_load {img : Image} {s : State} (he : s.phase = .preLoad) (h : lifecycleInv s = true) :
    lifecycleInv (body (.load img) s) = true := by
  rcases loadBody_cases img s with ⟨-, hb⟩ | ⟨bs, -, -, hb⟩ | ⟨bs, -, -, hb⟩ <;> rw [body, hb] <;>
    simp_all [lifecycleInv, phaseConsistent, faultsJustified, untouched, domainsIdle]

theorem lifecycleInv_start {ok : Bool} {s : State} (he : s.phase = .loaded) (h : lifecycleInv s = true) :
    lifecycleInv (body (.start ok) s) = true := by
  cases ok <;> simp_all [lifecycleInv, phaseConsistent, faultsJustified, untouched, domainsIdle, exitCodeOf]

theorem lifecycleInv_quit {s : State} (he : quitEnabled s = true) (h : lifecycleInv s = true) :
    lifecycleInv (body .quit s) = true := by
  obtain ⟨hphase, hhost⟩ := (quitEnabled_iff s).1 he
  cases hcpu : s.cpu <;> simp_all [lifecycleInv, phaseConsistent, faultsJustified]

theorem lifecycleInv_procExit {s : State} (he : s.phase = .exiting) (h : lifecycleInv s = true) :
    lifecycleInv (body .procExit s) = true := by
  cases hcpu : s.cpu <;> simp_all [lifecycleInv, phaseConsistent, faultsJustified]

theorem lifecycleInv_outqClose {s : State} (he : closeEnabled s = true) (h : lifecycleInv s = true) :
    lifecycleInv (body .outqClose s) = true := by
  obtain ⟨hrun, hhost⟩ := (closeEnabled_iff s).1 he
  cases hcpu : s.cpu <;> rcases hrun with hphase | hphase <;>
    simp_all [lifecycleInv, phaseConsistent, faultsJustified]

theorem lifecycleInv_inqClose {s : State} (he : cpuEnabled s = true) (h : lifecycleInv s = true) :
    lifecycleInv (body .inqClose s) = true := by
  obtain ⟨hrun, hcpu⟩ := (cpuEnabled_iff s).1 he
  cases hhost : s.host <;> rcases hrun with hphase | hphase <;>
    simp_all [lifecycleInv, phaseConsistent, faultsJustified]

theorem lifecycleInv_body {i : Instr} {s : State} (he : enabled i s = true) (h : lifecycleInv s = true) :
    lifecycleInv (body i s) = true := by
  cases i with
  | ioWr p v => exact lifecycleInv_ioWr he h
  | inqSend v => exact lifecycleInv_inqSend he h
  | load img => exact lifecycleInv_load ((loadEnabled_iff s).1 he) h
  | start ok => exact lifecycleInv_start ((startEnabled_iff s).1 he) h
  | quit => exact lifecycleInv_quit he h
  | procExit => exact lifecycleInv_procExit ((exitEnabled_iff s).1 he) h
  | outqClose => exact lifecycleInv_outqClose he h
  | inqClose => exact lifecycleInv_inqClose he h
  | memRd _ | memWr _ _ | ioRd _ | inqTryrecv | inqRecv =>
    rw [lifecycleInv_congr ((cpuEnabled_iff s).1 he).1] <;> simp [h]
  | outqTryrecv | outqRecv => rw [lifecycleInv_congr ((hostEnabled_iff s).1 he).1] <;> simp [h]

/-- Settles O51: refusals leave the lifecycle alone, and every enabled body keeps its invariant. -/
theorem stepsKeepLifecycle : Obligations.StepsKeepLifecycle :=
  fun _ _ hs h => step_keeps (fun s => lifecycleInv s = true) (fun _ => rfl) (fun _ _ h => h)
    (fun _ _ he => lifecycleInv_body he hs) h hs

/-! ### What is recorded stays (R24, R28, R132, R136) -/

/-- Before the start nothing is recorded. -/
theorem nothing_recorded_before_start {s : State} (h : lifecycleInv s = true)
    (hphase : s.phase = .preLoad ∨ s.phase = .loaded) :
    s.cpu = .idle ∧ s.host = .idle ∧ s.failCode = none ∧ s.exitCode = none := by
  rcases hphase with hphase | hphase <;> simp_all [lifecycleInv, phaseConsistent, untouched, domainsIdle]

theorem no_exitCode_when_exiting {s : State} (h : lifecycleInv s = true) (hphase : s.phase = .exiting) :
    s.exitCode = none := by
  simp_all [lifecycleInv, phaseConsistent]

theorem body_outqConsOpen_of_closed (i : Instr) {s : State} (h : s.outqConsOpen = false) :
    (body i s).outqConsOpen = false := by
  by_contra hne
  rcases outqConsOpen_writer (fun heq => hne (heq.trans h)) with rfl | rfl <;> exact hne rfl

theorem body_inqConsOpen_of_closed (i : Instr) {s : State} (h : s.inqConsOpen = false) :
    (body i s).inqConsOpen = false := by
  by_contra hne
  obtain rfl := inqConsOpen_writer (fun heq => hne (heq.trans h))
  exact hne rfl

/-- The two writers of `cpu` need it `IDLE`, by the invariant, or `ACTIVE`. -/
theorem body_cpu_of_faulted {i : Instr} {s : State} {f : BlockFault} (hinv : lifecycleInv s = true)
    (he : enabled i s = true) (h : s.cpu = .faulted f) : (body i s).cpu = .faulted f := by
  rw [← h]
  by_contra hne
  rcases cpu_writer hne with rfl | ⟨v, rfl, -⟩
  · have hidle := (nothing_recorded_before_start hinv (.inr ((startEnabled_iff s).1 he))).1
    rw [hidle] at h
    cases h
  · have hactive := ((cpuEnabled_iff s).1 he).2
    rw [hactive] at h
    cases h

/-- The three writers of `host` need it `IDLE`, by the invariant, or `ACTIVE`. -/
theorem body_host_of_not_active {i : Instr} {s : State} (hinv : lifecycleInv s = true) (he : enabled i s = true)
    (hidle : s.host ≠ .idle) (hactive : s.host ≠ .active) : (body i s).host = s.host := by
  by_contra hne
  rcases host_writer hne with rfl | rfl | ⟨v, rfl, -⟩
  · exact hidle (nothing_recorded_before_start hinv (.inr ((startEnabled_iff s).1 he))).2.1
  · exact hactive ((quitEnabled_iff s).1 he).2
  · exact hactive ((hostEnabled_iff s).1 he).2

theorem body_failCode_of_some {i : Instr} {s : State} {f : BlockFault} (hinv : lifecycleInv s = true)
    (he : enabled i s = true) (h : s.failCode = some f) : (body i s).failCode = some f := by
  rw [← h]
  by_contra hne
  have hphase : s.phase = .preLoad ∨ s.phase = .loaded := by
    rcases failCode_writer hne with ⟨img, rfl⟩ | rfl
    · exact .inl ((loadEnabled_iff s).1 he)
    · exact .inr ((startEnabled_iff s).1 he)
  have hnone := (nothing_recorded_before_start hinv hphase).2.2.1
  rw [hnone] at h
  cases h

theorem body_exitCode_of_some {i : Instr} {s : State} {n : Int} (hinv : lifecycleInv s = true)
    (he : enabled i s = true) (h : s.exitCode = some n) : (body i s).exitCode = some n := by
  rw [← h]
  by_contra hne
  have hnone : s.exitCode = none := by
    rcases exitCode_writer hne with ⟨img, rfl⟩ | rfl | rfl
    · exact (nothing_recorded_before_start hinv (.inl ((loadEnabled_iff s).1 he))).2.2.2
    · exact (nothing_recorded_before_start hinv (.inr ((startEnabled_iff s).1 he))).2.2.2
    · exact no_exitCode_when_exiting hinv ((exitEnabled_iff s).1 he)
  rw [hnone] at h
  cases h

/-- Settles O54: each record is kept by every refusal and, under the invariant, by every enabled body. -/
theorem recordsAreNeverCleared : Obligations.RecordsAreNeverCleared := by
  intro s t hinv h
  have keeps : ∀ P : State → Prop, (∀ s, P (block s) = P s) → (∀ r s, P s → P (refuse r s)) →
      (P s → ∀ i, enabled i s = true → P (body i s)) → P s → P t :=
    fun P hblock hrefuse hbody hs => step_keeps P hblock hrefuse (fun i _ he => hbody hs i he) h hs
  refine ⟨?_, ?_, ?_, ?_, fun f => ?_, fun f => ?_, ?_, fun f => ?_, fun n => ?_⟩
  · exact keeps (fun t => t.cfg = s.cfg) (fun _ => rfl) (fun _ _ h => h) (fun _ i _ => body_cfg i s) rfl
  · exact keeps (fun t => t.refused = true) (fun _ => rfl) (fun _ _ _ => rfl) (fun h i _ => by simpa using h)
  · exact keeps (fun t => t.outqConsOpen = false) (fun _ => rfl) (fun _ _ h => h)
      (fun h i _ => body_outqConsOpen_of_closed i h)
  · exact keeps (fun t => t.inqConsOpen = false) (fun _ => rfl) (fun _ _ h => h)
      (fun h i _ => body_inqConsOpen_of_closed i h)
  · exact keeps (fun t => t.cpu = .faulted f) (fun _ => rfl) (fun _ _ h => h)
      (fun h i he => body_cpu_of_faulted hinv he h)
  · exact keeps (fun t => t.host = .faulted f) (fun _ => rfl) (fun _ _ h => h) fun h i he =>
      (body_host_of_not_active hinv he (by simp [h]) (by simp [h])).trans h
  · exact keeps (fun t => t.host = .done) (fun _ => rfl) (fun _ _ h => h) fun h i he =>
      (body_host_of_not_active hinv he (by simp [h]) (by simp [h])).trans h
  · exact keeps (fun t => t.failCode = some f) (fun _ => rfl) (fun _ _ h => h)
      (fun h i he => body_failCode_of_some hinv he h)
  · exact keeps (fun t => t.exitCode = some n) (fun _ => rfl) (fun _ _ h => h)
      (fun h i he => body_exitCode_of_some hinv he h)

end Sys2Proof.Proofs.Invariants

namespace Sys2Proof.Proofs.Ownership
open Sys2Proof Sys2Proof.Machine Sys2Proof.Proofs.Bodies Sys2Proof.Proofs.Writers Sys2Proof.Proofs.Steps

/-! ### Who changes what (R18, R23, R24, R27, R28, R31, R143)

Each lemma reads a field's writer off `step_writer`, with its issuer's turn and what its enabling says. -/

section
variable {s t : State}

theorem mem_owner (h : step s = .next t) (hne : t.mem ≠ s.mem) :
    (s.turn = .cpu ∧ inRunExit s = true ∧ ∃ a v, s.nextTxn = some (.memWr a v)) ∨
      (s.turn = .proc ∧ s.phase = .preLoad ∧ ∃ img, s.nextTxn = some (.load img)) := by
  obtain ⟨i, hn, ho, he, hi⟩ := step_writer State.mem (fun _ => rfl) (fun _ _ => rfl) h hne
  rcases mem_writer hi with ⟨a, v, rfl⟩ | ⟨img, rfl⟩
  · exact .inl ⟨ho.symm, (inRunExit_iff s).2 ((cpuEnabled_iff s).1 he).1, a, v, hn⟩
  · exact .inr ⟨ho.symm, (loadEnabled_iff s).1 he, img, hn⟩

theorem io_owner (h : step s = .next t) (hne : t.io ≠ s.io) :
    s.turn = .cpu ∧ inRunExit s = true ∧ ∃ p v, s.nextTxn = some (.ioWr p v) := by
  obtain ⟨i, hn, ho, he, hi⟩ := step_writer State.io (fun _ => rfl) (fun _ _ => rfl) h hne
  obtain ⟨p, v, rfl⟩ := io_writer hi
  exact ⟨ho.symm, (inRunExit_iff s).2 ((cpuEnabled_iff s).1 he).1, p, v, hn⟩

theorem outq_owner (h : step s = .next t) (hne : t.outq ≠ s.outq) :
    (s.turn = .cpu ∧ ∃ v, s.nextTxn = some (.ioWr s.cfg.txAddr v)) ∨
      (s.turn = .host ∧ (s.nextTxn = some .outqTryrecv ∨ s.nextTxn = some .outqRecv)) := by
  obtain ⟨i, hn, ho, -, hi⟩ := step_writer State.outq (fun _ => rfl) (fun _ _ => rfl) h hne
  rcases outq_writer hi with ⟨v, rfl, -⟩ | rfl | rfl
  · exact .inl ⟨ho.symm, v, hn⟩
  · exact .inr ⟨ho.symm, .inl hn⟩
  · exact .inr ⟨ho.symm, .inr hn⟩

theorem inq_owner (h : step s = .next t) (hne : t.inq ≠ s.inq) :
    (s.turn = .host ∧ ∃ v, s.nextTxn = some (.inqSend v)) ∨
      (s.turn = .cpu ∧ (s.nextTxn = some .inqTryrecv ∨ s.nextTxn = some .inqRecv)) := by
  obtain ⟨i, hn, ho, -, hi⟩ := step_writer State.inq (fun _ => rfl) (fun _ _ => rfl) h hne
  rcases inq_writer hi with ⟨v, rfl, -⟩ | rfl | rfl
  · exact .inl ⟨ho.symm, v, hn⟩
  · exact .inr ⟨ho.symm, .inl hn⟩
  · exact .inr ⟨ho.symm, .inr hn⟩

theorem outqConsOpen_owner (h : step s = .next t) (hne : t.outqConsOpen ≠ s.outqConsOpen) :
    s.turn = .host ∧ (s.nextTxn = some .outqClose ∨ s.nextTxn = some .quit) := by
  obtain ⟨i, hn, ho, -, hi⟩ := step_writer State.outqConsOpen (fun _ => rfl) (fun _ _ => rfl) h hne
  rcases outqConsOpen_writer hi with rfl | rfl
  · exact ⟨ho.symm, .inl hn⟩
  · exact ⟨ho.symm, .inr hn⟩

theorem inqConsOpen_owner (h : step s = .next t) (hne : t.inqConsOpen ≠ s.inqConsOpen) :
    s.turn = .cpu ∧ s.nextTxn = some .inqClose := by
  obtain ⟨i, hn, ho, -, hi⟩ := step_writer State.inqConsOpen (fun _ => rfl) (fun _ _ => rfl) h hne
  obtain rfl := inqConsOpen_writer hi
  exact ⟨ho.symm, hn⟩

theorem cpu_owner (h : step s = .next t) (hne : t.cpu ≠ s.cpu) :
    (s.turn = .proc ∧ s.phase = .loaded ∧ s.nextTxn = some (.start true)) ∨
      (s.turn = .cpu ∧ s.outqConsOpen = false ∧ ∃ v, s.nextTxn = some (.ioWr s.cfg.txAddr v)) := by
  obtain ⟨i, hn, ho, he, hi⟩ := step_writer State.cpu (fun _ => rfl) (fun _ _ => rfl) h hne
  rcases cpu_writer hi with rfl | ⟨v, rfl, hclosed⟩
  · exact .inl ⟨ho.symm, (startEnabled_iff s).1 he, hn⟩
  · exact .inr ⟨ho.symm, hclosed, v, hn⟩

theorem host_owner (h : step s = .next t) (hne : t.host ≠ s.host) :
    (s.turn = .proc ∧ s.phase = .loaded ∧ s.nextTxn = some (.start true)) ∨
      (s.turn = .host ∧ s.nextTxn = some .quit) ∨
      (s.turn = .host ∧ s.inqConsOpen = false ∧ ∃ v, s.nextTxn = some (.inqSend v)) := by
  obtain ⟨i, hn, ho, he, hi⟩ := step_writer State.host (fun _ => rfl) (fun _ _ => rfl) h hne
  rcases host_writer hi with rfl | rfl | ⟨v, rfl, hclosed⟩
  · exact .inl ⟨ho.symm, (startEnabled_iff s).1 he, hn⟩
  · exact .inr (.inl ⟨ho.symm, hn⟩)
  · exact .inr (.inr ⟨ho.symm, hclosed, v, hn⟩)

theorem phase_owner (h : step s = .next t) (hne : t.phase ≠ s.phase) :
    (s.turn = .proc ∧ ((∃ img, s.nextTxn = some (.load img)) ∨ (∃ ok, s.nextTxn = some (.start ok)) ∨
        s.nextTxn = some .procExit)) ∨
      (s.turn = .host ∧ s.nextTxn = some .quit) := by
  obtain ⟨i, hn, ho, -, hi⟩ := step_writer State.phase (fun _ => rfl) (fun _ _ => rfl) h hne
  rcases phase_writer hi with ⟨img, rfl⟩ | ⟨ok, rfl⟩ | rfl | rfl
  · exact .inl ⟨ho.symm, .inl ⟨img, hn⟩⟩
  · exact .inl ⟨ho.symm, .inr (.inl ⟨ok, hn⟩)⟩
  · exact .inr ⟨ho.symm, hn⟩
  · exact .inl ⟨ho.symm, .inr (.inr hn)⟩

theorem failCode_owner (h : step s = .next t) (hne : t.failCode ≠ s.failCode) :
    s.turn = .proc ∧ ((∃ img, s.nextTxn = some (.load img)) ∨ s.nextTxn = some (.start false)) := by
  obtain ⟨i, hn, ho, -, hi⟩ := step_writer State.failCode (fun _ => rfl) (fun _ _ => rfl) h hne
  rcases failCode_writer hi with ⟨img, rfl⟩ | rfl
  · exact ⟨ho.symm, .inl ⟨img, hn⟩⟩
  · exact ⟨ho.symm, .inr hn⟩

theorem exitCode_owner (h : step s = .next t) (hne : t.exitCode ≠ s.exitCode) :
    s.turn = .proc ∧ ((∃ img, s.nextTxn = some (.load img)) ∨ s.nextTxn = some (.start false) ∨
      s.nextTxn = some .procExit) := by
  obtain ⟨i, hn, ho, -, hi⟩ := step_writer State.exitCode (fun _ => rfl) (fun _ _ => rfl) h hne
  rcases exitCode_writer hi with ⟨img, rfl⟩ | rfl | rfl
  · exact ⟨ho.symm, .inl ⟨img, hn⟩⟩
  · exact ⟨ho.symm, .inr (.inl hn)⟩
  · exact ⟨ho.symm, .inr (.inr hn)⟩

/-- No body sets `refused`; a refusal does, and says so. -/
theorem refused_owner (h : step s = .next t) (hne : t.refused ≠ s.refused) : ∃ r, t.last = .refused r := by
  rcases step_body h with hb | ⟨r, hl, -⟩ | ⟨i, -, -, -, -, hb⟩
  · exact absurd (congrArg State.refused hb :) hne
  · exact ⟨r, hl⟩
  · exact absurd ((congrArg State.refused hb :).trans (body_refused i s)) hne

end

/-- Settles O53: one lemma for each field. -/
theorem stateChangesOnlyByItsOwner : Obligations.StateChangesOnlyByItsOwner :=
  fun _ _ h => ⟨mem_owner h, io_owner h, outq_owner h, inq_owner h, outqConsOpen_owner h, inqConsOpen_owner h,
    cpu_owner h, host_owner h, phase_owner h, failCode_owner h, exitCode_owner h, refused_owner h⟩

/-! ### The transitions of `phase` (R27, R117) -/

theorem phaseMayFollow_refl (p : Phase) : phaseMayFollow p p = true := by cases p <;> rfl

/-- What an enabled body that changes the phase is, and the phase and the answer it leaves. -/
theorem body_phase_cases {i : Instr} {s : State} (he : enabled i s = true) (hne : (body i s).phase ≠ s.phase) :
    (s.phase = .preLoad ∧ ∃ img, i = .load img ∧
      ((body i s).phase = .loaded ∧ (body i s).last = .returned .none ∨
        (body i s).phase = .failed ∧ ∃ f, (body i s).last = .faulted f)) ∨
    (s.phase = .loaded ∧ ∃ ok, i = .start ok ∧ (body i s).phase = if ok then .running else .failed) ∨
    (s.phase = .running ∧ i = .quit ∧ (body i s).phase = .exiting) ∨
    (s.phase = .exiting ∧ i = .procExit ∧ (body i s).phase = .exited) := by
  rcases phase_writer hne with ⟨img, rfl⟩ | ⟨ok, rfl⟩ | rfl | rfl
  · refine .inl ⟨(loadEnabled_iff s).1 he, img, rfl, ?_⟩
    rcases loadBody_cases img s with ⟨-, hb⟩ | ⟨bs, -, -, hb⟩ | ⟨bs, -, -, hb⟩ <;> rw [body, hb]
    · exact .inr ⟨rfl, _, rfl⟩
    · exact .inr ⟨rfl, _, rfl⟩
    · exact .inl ⟨rfl, rfl⟩
  · exact .inr (.inl ⟨(startEnabled_iff s).1 he, ok, rfl, by rw [body_start]⟩)
  · exact .inr (.inr (.inl ⟨((quitEnabled_iff s).1 he).1, rfl, rfl⟩))
  · exact .inr (.inr (.inr ⟨(exitEnabled_iff s).1 he, rfl, rfl⟩))

/-- A body that enters `FAILED` has an exit code that is not zero, the type of the parameters says. -/
theorem body_exitCode_of_failed {i : Instr} {s : State} (hs : s.phase ≠ .failed) (h : (body i s).phase = .failed) :
    ∃ n, (body i s).exitCode = some n ∧ n ≠ 0 := by
  rcases phase_writer (fun heq => hs (heq.symm.trans h)) with ⟨img, rfl⟩ | ⟨ok, rfl⟩ | rfl | rfl
  · rcases loadBody_cases img s with ⟨-, hb⟩ | ⟨bs, -, -, hb⟩ | ⟨bs, -, -, hb⟩ <;> rw [body, hb] at h ⊢
    · exact ⟨_, rfl, s.cfg.exitUnreadable.property⟩
    · exact ⟨_, rfl, s.cfg.exitTooLarge.property⟩
    · cases h
  · cases ok with
    | true => cases h
    | false => exact ⟨_, rfl, s.cfg.exitSurface.property⟩
  · cases h
  · cases h

theorem body_exitCode_of_exited {i : Instr} {s : State} (hs : s.phase ≠ .exited) (h : (body i s).phase = .exited) :
    (body i s).exitCode = some 0 := by
  rcases phase_writer (fun heq => hs (heq.symm.trans h)) with ⟨img, rfl⟩ | ⟨ok, rfl⟩ | rfl | rfl
  · rcases loadBody_cases img s with ⟨-, hb⟩ | ⟨bs, -, -, hb⟩ | ⟨bs, -, -, hb⟩ <;> rw [body, hb] at h <;> cases h
  · cases ok <;> cases h
  · cases h
  · rfl

/-- Settles O52: a step that changes the phase is an enabled body, and there are four. -/
theorem phaseTransitionsAsListed : Obligations.PhaseTransitionsAsListed := by
  intro s t h
  by_cases hsame : t.phase = s.phase
  · rw [hsame]
    exact ⟨phaseMayFollow_refl _, fun hne => absurd rfl hne, fun hne heq => absurd heq hne,
      fun hne heq => absurd heq hne⟩
  · rcases step_body h with hb | ⟨r, -, hb⟩ | ⟨i, hn, -, he, hl, hb⟩
    · exact absurd (congrArg State.phase hb :) hsame
    · exact absurd (congrArg State.phase hb :) hsame
    · have hphase : t.phase = (body i s).phase := (congrArg State.phase hb :)
      have hexit : t.exitCode = (body i s).exitCode := (congrArg State.exitCode hb :)
      rw [hphase] at hsame
      have hcases := body_phase_cases he hsame
      rw [hphase, hexit, hl, hn]
      refine ⟨?_, fun _ => ?_, body_exitCode_of_failed, body_exitCode_of_exited⟩
      · rcases hcases with ⟨hp, img, -, ⟨hq, -⟩ | ⟨hq, -⟩⟩ | ⟨hp, ok, -, hq⟩ | ⟨hp, -, hq⟩ | ⟨hp, -, hq⟩ <;> rw [hp, hq]
        case inr.inl => cases ok <;> rfl
        all_goals rfl
      · simpa only [Option.some.injEq] using hcases

end Sys2Proof.Proofs.Ownership

namespace Sys2Proof.Proofs.HiddenBytes
open Sys2Proof Sys2Proof.Machine Sys2Proof.Proofs.Bodies Sys2Proof.Proofs.Writers Sys2Proof.Proofs.Steps

/-! ### Two register files that no port read tells apart (R20) -/

/-- Another register file. -/
def withIo (m : Memory) (s : State) : State := { s with io := m }

/-- The two files agree under every port that is not synthetic. -/
def AgreeWhereSeen (c : Config) (m n : Memory) : Prop :=
  ∀ p : Port, isSynthetic c p = false → Memory.get m p.toNat = Memory.get n p.toNat

theorem sameButHidden_withIo {s : State} {m : Memory} (h : AgreeWhereSeen s.cfg s.io m) :
    sameButHidden s (withIo m s) := ⟨rfl, h⟩

theorem exists_withIo_of_sameButHidden {s t : State} (h : sameButHidden s t) :
    t = withIo t.io s ∧ AgreeWhereSeen s.cfg s.io t.io :=
  ⟨(congrArg (withIo t.io) h.1.symm :), h.2⟩

theorem portRead_withIo {s : State} {m : Memory} (h : AgreeWhereSeen s.cfg s.io m) (p : Port) :
    portRead (withIo m s) p = portRead s p := by
  cases hsyn : syntheticVal s.cfg p with
  | some v => rw [portRead_synthetic s p v hsyn, portRead_synthetic (withIo m s) p v hsyn]
  | none =>
    have hstored : isSynthetic s.cfg p = false := by rw [isSynthetic, hsyn, Option.isSome_none]
    rw [portRead_stored s p hstored, portRead_stored (withIo m s) p hstored]
    exact (h p hstored).symm

theorem agreeWhereSeen_set {c : Config} {m n : Memory} (hm : Memory.wf m = true) (hn : Memory.wf n = true)
    (h : AgreeWhereSeen c m n) (p : Port) (v : Byte) :
    AgreeWhereSeen c (Memory.set m p.toNat v) (Memory.set n p.toNat v) := by
  intro q hq
  rw [Memory.get_set m p.toNat v hm, Memory.get_set n p.toNat v hn, h q hq]

/-- Every body but `IO_WR`'s passes the register file through, and sees of it what port reads see. -/
theorem body_withIo {i : Instr} {s : State} {m : Memory} (hi : ∀ p v, i ≠ .ioWr p v)
    (h : AgreeWhereSeen s.cfg s.io m) : body i (withIo m s) = withIo m (body i s) := by
  cases i with
  | ioWr p v => exact absurd rfl (hi p v)
  | memRd _ | memWr _ _ | outqClose | inqClose | quit | procExit => rfl
  | ioRd p =>
    rw [body_ioRd, body_ioRd, portRead_withIo h]
    rfl
  | load img => exact Independence.loadBody_comm (withIo m) img rfl (fun _ => rfl) (fun _ => rfl)
  | _ => simp [withIo]

theorem exec_withIo {i : Instr} {s u : State} {m : Memory} (hs : Memory.wf s.io = true) (hm : Memory.wf m = true)
    (h : AgreeWhereSeen s.cfg s.io m) (hu : exec i s = .next u) :
    ∃ n, exec i (withIo m s) = .next (withIo n u) ∧ AgreeWhereSeen u.cfg u.io n := by
  have hcfg : u.cfg = s.cfg := (exec_sameInputs hu).1
  rw [hcfg]
  by_cases hi : ∀ p v, i ≠ .ioWr p v
  · have hio : u.io = s.io := by
      by_contra hne
      obtain ⟨-, rfl⟩ := body_of_ne State.io hu hne rfl rfl
      obtain ⟨p, v, rfl⟩ := io_writer hne
      exact hi p v rfl
    rw [hio]
    refine ⟨m, Independence.exec_comm (withIo m) hu ?_ ?_ rfl rfl (body_withIo hi h), h⟩ <;> cases i <;> rfl
  · push Not at hi
    obtain ⟨p, v, rfl⟩ := hi
    rcases exec_cases_of_open rfl hu with ⟨he, rfl⟩ | ⟨he, rfl⟩
    · exact ⟨m, exec_of_not_enabled (.ioWr p v) (withIo m s) rfl he, h⟩
    · refine ⟨Memory.set m p.toNat v, ?_, ?_⟩
      · rw [exec_of_enabled (.ioWr p v) (withIo m s) rfl he, body_ioWr, body_ioWr]
        rfl
      · rw [body_ioWr]
        exact agreeWhereSeen_set hs hm h p v

theorem retire_withIo (a : Agent) (m : Memory) (s : State) : (withIo m s).retire a = withIo m (s.retire a) := by
  by_cases hl : s.last = .held
  · rw [retire_held a s hl, retire_held a (withIo m s) hl]
  · rw [retire_done a s hl, retire_done a (withIo m s) hl]
    cases a <;> rfl

theorem refusedTurn_withIo (r : RefuseReason) (m : Memory) (s : State) :
    refusedTurn r (withIo m s) = withIo m (refusedTurn r s) :=
  retire_withIo s.turn m (refuse r s.takeTurn)

/-- Settles O57: the turn, the fetch and the checks do not look at the register file, and a transaction sees of it what
port reads see. -/
theorem hiddenBytesAreNeverObserved : Obligations.HiddenBytesAreNeverObserved := by
  intro s t s' hs ht hsame h
  obtain ⟨heq, hagree⟩ := exists_withIo_of_sameButHidden hsame
  rw [heq]
  rcases step_cases h with ⟨hc, rfl⟩ | ⟨hc, he, hf, rfl⟩ | ⟨r, hc, he, hf, rfl⟩ | ⟨i, u, hc, he, hf, hu, rfl⟩
  · refine ⟨_, step_config (s := withIo t.io s) hc, ?_⟩
    rw [refusedTurn_withIo]
    exact sameButHidden_withIo (by simpa [refusedTurn_eq] using hagree)
  · exact ⟨_, step_idle (s := withIo t.io s) hc he hf, sameButHidden_withIo hagree⟩
  · refine ⟨_, step_refused (s := withIo t.io s) hc he hf, ?_⟩
    rw [refusedTurn_withIo]
    exact sameButHidden_withIo (by simpa [refusedTurn_eq] using hagree)
  · obtain ⟨n, hn, hagree'⟩ := exec_withIo (s := s.takeTurn) hs ht hagree hu
    refine ⟨_, step_run (s := withIo t.io s) hc he hf hn, ?_⟩
    rw [retire_withIo]
    exact sameButHidden_withIo (by simpa using hagree')

end Sys2Proof.Proofs.HiddenBytes

namespace Sys2Proof.Proofs.Alphabets
open Sys2Proof Sys2Proof.Machine Sys2Proof.Proofs.Bodies Sys2Proof.Proofs.Writers Sys2Proof.Proofs.Steps

/-! ### What the agents have issued (R122 to R124) -/

theorem actKeepsAlphabet_issue_iff (c : Config) (a : Agent) (r : Request) :
    actKeepsAlphabet c (.issue a r) = true ↔ ∃ i, decode c.addrWidth r = .ok i ∧ agentIssues a i = true := by
  rw [actKeepsAlphabet]
  cases decode c.addrWidth r with
  | ok i => simp
  | error e => simp

theorem agentsKeepAlphabet_iff (s : State) :
    agentsKeepAlphabet s = true ↔ ∀ a, ∀ r ∈ s.txns a, actKeepsAlphabet s.cfg (.issue a r) = true := by
  have hdef : agentsKeepAlphabet s =
      (s.cpuTxns.all (fun r => actKeepsAlphabet s.cfg (.issue .cpu r)) &&
        s.hostTxns.all (fun r => actKeepsAlphabet s.cfg (.issue .host r)) &&
        s.procTxns.all (fun r => actKeepsAlphabet s.cfg (.issue .proc r))) := rfl
  simp only [hdef, Bool.and_eq_true, List.all_eq_true]
  constructor
  · rintro ⟨⟨hcpu, hhost⟩, hproc⟩ a
    cases a with
    | cpu => exact hcpu
    | host => exact hhost
    | proc => exact hproc
  · exact fun h => ⟨⟨h .cpu, h .host⟩, h .proc⟩

theorem retire_txns_suffix (a b : Agent) (s : State) : (s.retire a).txns b <:+ s.txns b := by
  rw [retire_txns]
  split
  · exact List.tail_suffix _
  · exact List.suffix_refl _

/-- A step takes at most the first request off a list. -/
theorem step_txns_suffix {s t : State} (h : step s = .next t) (a : Agent) : t.txns a <:+ s.txns a := by
  rcases step_cases h with ⟨-, rfl⟩ | ⟨-, -, -, rfl⟩ | ⟨r, -, -, -, rfl⟩ | ⟨i, u, -, -, -, hu, rfl⟩
  · have hsuffix := retire_txns_suffix s.turn a (refuse .config s.takeTurn)
    cases a <;> exact hsuffix
  · cases a <;> exact List.suffix_refl _
  · have hsuffix := retire_txns_suffix s.turn a (refuse r s.takeTurn)
    cases a <;> exact hsuffix
  · rw [← txns_takeTurn s, ← exec_txns hu]
    exact retire_txns_suffix s.turn a u

theorem step_cfg {s t : State} (h : step s = .next t) : t.cfg = s.cfg :=
  step_keeps (fun t => t.cfg = s.cfg) (fun _ => rfl) (fun _ _ h => h) (fun i _ _ => body_cfg i s) h rfl

theorem step_keeps_alphabet {s t : State} (hs : agentsKeepAlphabet s = true) (h : step s = .next t) :
    agentsKeepAlphabet t = true := by
  rw [agentsKeepAlphabet_iff] at hs ⊢
  rw [step_cfg h]
  exact fun a r hr => hs a r ((step_txns_suffix h a).subset hr)

/-- The transaction of a step is in the alphabet of the agent whose turn it is. -/
theorem agentIssues_of_nextTxn {s : State} {i : Instr} (hs : agentsKeepAlphabet s = true) (h : s.nextTxn = some i) :
    agentIssues s.turn i = true := by
  obtain ⟨-, -, r, rs, ht, hd⟩ := fetched_run (fetched_of_nextTxn h).2.2
  have hr := (agentsKeepAlphabet_iff s).1 hs s.turn r (by rw [ht]; exact List.mem_cons_self)
  obtain ⟨j, hj, hissues⟩ := (actKeepsAlphabet_issue_iff s.cfg s.turn r).1 hr
  rw [hd] at hj
  cases hj
  exact hissues

theorem inbound_receive_not_issued (a : Agent) :
    agentIssues a .inqTryrecv = false ∧ agentIssues a .inqRecv = false ∧ agentIssues a .inqClose = false := by
  cases a <;> exact ⟨rfl, rfl, rfl⟩

theorem body_inq_prefix {i : Instr} {s : State} (htry : i ≠ .inqTryrecv) (hrecv : i ≠ .inqRecv) :
    s.inq <+: (body i s).inq := by
  by_cases hsame : (body i s).inq = s.inq
  · rw [hsame]
  · rcases inq_writer hsame with ⟨v, rfl, hopen⟩ | rfl | rfl
    · simp [hopen]
    · exact absurd rfl htry
    · exact absurd rfl hrecv

theorem body_host_not_faulted {i : Instr} {s : State} {f : BlockFault} (hopen : s.inqConsOpen = true)
    (h : (body i s).host = .faulted f) : s.host = .faulted f := by
  by_cases hsame : (body i s).host = s.host
  · rw [← hsame, h]
  · rcases host_writer hsame with rfl | rfl | ⟨v, -, hclosed⟩
    · cases h
    · cases h
    · rw [hopen] at hclosed
      cases hclosed

/-- Settles O58: the transactions that would do it are the CPU's inbound receives and close, which no agent issues, and
a send at a closed consumer. -/
theorem describedSystemNeverDrainsInbound : Obligations.DescribedSystemNeverDrainsInbound := by
  intro s t hs hopen h
  have hissued : ∀ i, s.nextTxn = some i → i ≠ .inqTryrecv ∧ i ≠ .inqRecv ∧ i ≠ .inqClose := by
    intro i hn
    have hissues := agentIssues_of_nextTxn hs hn
    obtain ⟨htry, hrecv, hclose⟩ := inbound_receive_not_issued s.turn
    refine ⟨?_, ?_, ?_⟩ <;> rintro rfl <;> simp_all
  refine ⟨step_keeps_alphabet hs h, ?_, ?_, ?_⟩
  · by_contra hne
    obtain ⟨-, hn⟩ := Ownership.inqConsOpen_owner h (fun heq => hne (heq.trans hopen))
    exact (hissued _ hn).2.2 rfl
  · exact step_keeps (fun t => s.inq <+: t.inq) (fun _ => rfl) (fun _ _ h => h)
      (fun i hn _ => body_inq_prefix (hissued i hn).1 (hissued i hn).2.1) h (List.prefix_refl _)
  · exact step_keeps (fun t => ∀ f, t.host = .faulted f → s.host = .faulted f) (fun _ => rfl) (fun _ _ h => h)
      (fun i _ _ f hf => body_host_not_faulted hopen hf) h (fun _ hf => hf)

end Sys2Proof.Proofs.Alphabets

namespace Sys2Proof.Proofs.TransactionRuns
open Sys2Proof Sys2Proof.Machine Sys2Proof.Proofs.Bodies Sys2Proof.Proofs.Writers
open Sys2Proof.Proofs.TimerPorts (runTxn_cfg)

/-! ### Runs of whole transactions -/

theorem runTxn_of_enabled (i : Instr) (s : State) (hopen : endpointOpen i s = true) (henabled : enabled i s = true) :
    runTxn i s = body i s := by
  rw [runTxn, exec_of_enabled i s hopen henabled]

/-- A property that holds and refusals do not touch, and that the enabled bodies of a run keep, is kept by the run. -/
theorem runTxns_keeps {P : State → Prop} (hhold : ∀ s, P s → P (hold s))
    (hrefuse : ∀ s, P s → P (refuse .closedEndpoint s)) {is : List Instr}
    (hbody : ∀ i ∈ is, ∀ s, enabled i s = true → P s → P (body i s)) {s : State} (hs : P s) : P (runTxns is s) := by
  induction is generalizing s with
  | nil => exact hs
  | cons i is ih =>
    refine ih (fun j hj => hbody j (List.mem_cons_of_mem i hj)) ?_
    obtain ⟨t, ht⟩ := exec_total i s
    rw [runTxn, ht]
    rcases exec_cases ht with ⟨-, rfl⟩ | ⟨-, -, rfl⟩ | ⟨-, he, rfl⟩
    · exact hrefuse s hs
    · exact hhold s hs
    · exact hbody i List.mem_cons_self s he hs

/-! ### Read after write (R72, R80) -/

/-- `LOAD` and `START` are behind: no `LOAD` is enabled any more. -/
def Started (s : State) : Prop := s.phase ≠ .preLoad ∧ s.phase ≠ .loaded

theorem started_of_running {s : State} (h : s.phase = .running ∨ s.phase = .exiting) : Started s := by
  rcases h with h | h <;> simp [Started, h]

theorem started_body {i : Instr} {s : State} (he : enabled i s = true) (h : Started s) : Started (body i s) := by
  by_cases hsame : (body i s).phase = s.phase
  · rw [Started, hsame]
    exact h
  · rcases Ownership.body_phase_cases he hsame with ⟨hp, -⟩ | ⟨hp, -⟩ | ⟨-, -, hq⟩ | ⟨-, -, hq⟩
    · exact absurd hp h.1
    · exact absurd hp h.2
    · simp [Started, hq]
    · simp [Started, hq]

/-- The cell reads as `v`, in a store in canonical form, and no `LOAD` can come. -/
def CellReads (a : MemAddr) (v : Byte) (s : State) : Prop :=
  Started s ∧ Memory.wf s.mem = true ∧ memRead s a = v

theorem cellReads_body {a : MemAddr} {v : Byte} {i : Instr} {s : State} (hi : ∀ w, i ≠ .memWr a w)
    (he : enabled i s = true) (h : CellReads a v s) : CellReads a v (body i s) := by
  obtain ⟨hstarted, hwf, hread⟩ := h
  refine ⟨started_body he hstarted, ?_⟩
  by_cases hsame : (body i s).mem = s.mem
  · rw [hsame, memRead_congr hsame (body_cfg i s)]
    exact ⟨hwf, hread⟩
  · rcases mem_writer hsame with ⟨b, w, rfl⟩ | ⟨img, rfl⟩
    · have hab : ¬ (a = b ∧ b.toNat < s.cfg.total) := fun hab => hi w (by rw [hab.1])
      refine ⟨?_, (memRead_memWrite s b a w hwf).trans ?_⟩
      · rw [body_memWr, memWrite_mem]
        split
        · exact Memory.wf_set _ _ _ hwf
        · exact hwf
      · rw [if_neg hab, hread]
    · exact absurd ((loadEnabled_iff s).1 he) hstarted.1

/-- Settles O16: the write makes the cell read as `v`, and each transaction that does not write it keeps that. -/
theorem readAfterWrite : Obligations.ReadAfterWrite := by
  intro s a v is hphase hcpu hwf ha his
  have hwritten : CellReads a v (runTxn (.memWr a v) s) := by
    rw [runTxn_of_enabled (.memWr a v) s rfl ((cpuEnabled_iff s).2 ⟨hphase, hcpu⟩)]
    refine ⟨started_of_running hphase, ?_, (memRead_memWrite s a a v hwf).trans (if_pos ⟨rfl, ha⟩)⟩
    rw [body_memWr, memWrite_mem, inRange, if_pos (decide_eq_true ha)]
    exact Memory.wf_set _ _ _ hwf
  have hkept : CellReads a v (runTxns is (runTxn (.memWr a v) s)) :=
    runTxns_keeps (fun _ h => h) (fun _ h => h)
      (fun i hi s he h => cellReads_body (fun w hw => his w (hw ▸ hi)) he h) hwritten
  exact hkept.2.2

/-- The port reads as `v`, in a register file in canonical form. -/
def PortReads (p : Port) (v : Byte) (s : State) : Prop := Memory.wf s.io = true ∧ portRead s p = v

theorem portReads_body {p : Port} {v : Byte} {i : Instr} {s : State} (hi : ∀ w, i ≠ .ioWr p w)
    (h : PortReads p v s) : PortReads p v (body i s) := by
  obtain ⟨hwf, hread⟩ := h
  by_cases hsame : (body i s).io = s.io
  · rw [PortReads, hsame, portRead_congr hsame (body_cfg i s)]
    exact ⟨hwf, hread⟩
  · obtain ⟨q, w, rfl⟩ := io_writer hsame
    have hio : (body (.ioWr q w) s).io = (portStore q w s).io := by rw [body_ioWr, portStore_io]
    have hpq : ¬ (p = q ∧ isSynthetic s.cfg q = false) := fun hpq => hi w (by rw [hpq.1])
    refine ⟨?_, ?_⟩
    · rw [hio]
      exact Memory.wf_set _ _ _ hwf
    · rw [portRead_congr hio (body_cfg _ s), portRead_portStore s q p w hwf, if_neg hpq, hread]

theorem portReads_runTxns {p : Port} {v : Byte} {is : List Instr} (his : ∀ w, .ioWr p w ∉ is) {s : State}
    (hs : PortReads p v s) : PortReads p v (runTxns is s) :=
  runTxns_keeps (fun _ h => h) (fun _ h => h) (fun _ hi _ _ h => portReads_body (fun w hw => his w (hw ▸ hi)) h) hs

/-- Settles O24: the write, and the reset, make the port read so, and each transaction that does not write it keeps
that. -/
theorem storedPortsReadBack : Obligations.StoredPortsReadBack := by
  intro p is his
  refine ⟨fun s v hphase hcpu hwf hstored => (portReads_runTxns his ?_).2,
    fun c hstored => (portReads_runTxns his ?_).2⟩
  · have hio : (body (.ioWr p v) s).io = (portStore p v s).io := by rw [body_ioWr, portStore_io]
    rw [runTxn_of_enabled (.ioWr p v) s rfl ((cpuEnabled_iff s).2 ⟨hphase, hcpu⟩), PortReads, hio,
      portRead_congr hio (body_cfg _ s), portRead_portStore s p p v hwf, if_pos ⟨rfl, hstored⟩]
    exact ⟨Memory.wf_set _ _ _ hwf, rfl⟩
  · exact ⟨rfl, portRead_stored _ p hstored⟩

/-! ### Transmit ordering (R83) -/

theorem transmitted_cons (c : Config) (i : Instr) (is : List Instr) :
    transmitted c (i :: is) = transmitted c [i] ++ transmitted c is := by
  cases i with
  | ioWr p v =>
    by_cases hp : p = c.txAddr <;> simp [transmitted, hp]
  | _ => rfl

/-- The engine's transactions need no consumer endpoint and an active CPU domain (R120, R122). -/
theorem engine_conditions {i : Instr} (hi : cpuAgentIssues i = true) (s : State) :
    issuer i = .cpu ∧ endpointOpen i s = true ∧ enabled i s = cpuEnabled s := by
  cases i with
  | memRd _ | memWr _ _ | ioRd _ | ioWr _ _ => exact ⟨rfl, rfl, rfl⟩
  | _ => simp [cpuAgentIssues] at hi

/-- One transaction of the engine at an open consumer: it runs, the CPU goes on, and what it transmits joins the
queue. -/
theorem runTxn_engine {i : Instr} {s : State} (hi : cpuAgentIssues i = true) (henabled : cpuEnabled s = true)
    (hopen : s.outqConsOpen = true) :
    cpuEnabled (runTxn i s) = true ∧ (runTxn i s).outqConsOpen = true ∧
      (runTxn i s).outq = s.outq ++ transmitted s.cfg [i] := by
  obtain ⟨-, hendpoint, hcond⟩ := engine_conditions hi s
  rw [runTxn_of_enabled i s hendpoint (hcond.trans henabled)]
  cases i with
  | memRd _ | memWr _ _ | ioRd _ => exact ⟨henabled, hopen, (List.append_nil _).symm⟩
  | ioWr p v =>
    rw [body_ioWr]
    refine ⟨?_, hopen, ?_⟩
    · simpa [cpuEnabled, inRunExit, hopen] using henabled
    · by_cases hp : p = s.cfg.txAddr <;> simp [transmitted, hp, hopen]
  | _ => simp [cpuAgentIssues] at hi

theorem runTxns_engine_outq {is : List Instr} {s : State} (his : ∀ i ∈ is, cpuAgentIssues i = true)
    (henabled : cpuEnabled s = true) (hopen : s.outqConsOpen = true) :
    (runTxns is s).outq = s.outq ++ transmitted s.cfg is := by
  induction is generalizing s with
  | nil => exact (List.append_nil _).symm
  | cons i is ih =>
    obtain ⟨henabled', hopen', houtq⟩ := runTxn_engine (his i List.mem_cons_self) henabled hopen
    rw [runTxns, ih (fun j hj => his j (List.mem_cons_of_mem i hj)) henabled' hopen', houtq, runTxn_cfg,
      transmitted_cons s.cfg i is, List.append_assoc]

/-- Settles O25: transaction by transaction. -/
theorem transmitKeepsWriteOrder : Obligations.TransmitKeepsWriteOrder :=
  fun s _ hphase hcpu hopen his => runTxns_engine_outq his ((cpuEnabled_iff s).2 ⟨hphase, hcpu⟩) hopen

/-! ### The drain (R64, R124) -/

theorem drain_eq (q : List Byte) {s : State} {fuel : Nat} (hphase : s.phase = .running ∨ s.phase = .exiting)
    (hhost : s.host = .active) (hopen : s.outqConsOpen = true) (hq : s.outq = q) (hfuel : q.length < fuel) :
    drain fuel s = (q.map Response.byte ++ [.empty], { s with outq := [], last := .returned .empty }) := by
  induction q generalizing s fuel with
  | nil =>
    obtain ⟨fuel, rfl⟩ : ∃ n, fuel = n + 1 := ⟨fuel - 1, by omega⟩
    have hempty := (Transactions.outboundReceivesComplete s hphase hhost hopen).1 hq
    simp only [drain, hempty, hq]
    rfl
  | cons b q ih =>
    rw [List.length_cons] at hfuel
    obtain ⟨fuel, rfl⟩ : ∃ n, fuel = n + 1 := ⟨fuel - 1, by omega⟩
    have hhead := ((Transactions.outboundReceivesComplete s hphase hhost hopen).2 b q hq).1
    have hrest := ih (s := { s with outq := q, last := .returned (.byte b) }) (fuel := fuel) hphase hhost hopen rfl
      (by omega)
    simp only [drain, hhead, hrest]
    rfl

/-- After the end of the `DRAIN` a tick has sends alone. -/
theorem tickFrom_true_of_sends {es : List HostEvent} (h : es.filter (fun e => hostEventKind e != .send) = []) :
    tickFrom true es = true := by
  induction es with
  | nil => rfl
  | cons e es ih =>
    have hkind : hostEventKind e = .send := by simpa using List.filter_eq_nil_iff.1 h e List.mem_cons_self
    rw [List.filter_cons_of_neg (by simp [hkind])] at h
    rw [tickFrom, hkind]
    exact ih h

/-- A `DRAIN` of the bytes `q`, with sends anywhere, is the rest of a tick. -/
theorem tickFrom_false_of_drain (q : List Byte) {es : List HostEvent}
    (h : es.filter (fun e => hostEventKind e != .send) =
      (q.map Response.byte ++ [Response.empty]).map (fun r => (Instr.outqTryrecv, TxnResult.returned r))) :
    tickFrom false es = true := by
  induction es generalizing q with
  | nil => cases q <;> cases h
  | cons e es ih =>
    by_cases hkind : hostEventKind e = .send
    · rw [List.filter_cons_of_neg (by simp [hkind])] at h
      rw [tickFrom, hkind]
      exact ih q h
    · rw [List.filter_cons_of_pos (by simpa using hkind)] at h
      cases q with
      | nil =>
        obtain ⟨rfl, hrest⟩ := List.cons_eq_cons.1 h
        exact tickFrom_true_of_sends hrest
      | cons b q =>
        obtain ⟨rfl, hrest⟩ := List.cons_eq_cons.1 h
        exact ih q hrest

/-- Settles O34: the drain by induction on the queue, the tick by induction on the events. -/
theorem drainTakesTheWholeQueue : Obligations.DrainTakesTheWholeQueue := by
  intro s fuel hphase hhost hopen hfuel
  have hdrain := drain_eq s.outq hphase hhost hopen rfl hfuel
  refine ⟨hdrain, fun es hes => tickFrom_false_of_drain s.outq ?_⟩
  rw [hes, hdrain]

end Sys2Proof.Proofs.TransactionRuns

namespace Sys2Proof.Proofs.Acts
open Sys2Proof Sys2Proof.Machine Sys2Proof.Proofs.Bodies Sys2Proof.Proofs.Steps

/-! ### One act of a run, as the block sees it -/

theorem observed_eq_none {s : State} (h : s.nextTxn = none) : observed s = none := by
  rw [observed, h]

theorem observed_eq_some {s t : State} {i : Instr} (hn : s.nextTxn = some i) (h : step s = .next t) :
    observed s = some (i, t.last) := by
  rw [observed, hn, h]

/-- A machine that has no step has no transaction either. -/
theorem observed_of_no_step {s : State} (h : ∀ t, step s ≠ .next t) : observed s = none := by
  refine observed_eq_none (nextTxn_eq_none fun i hc he _ => ?_)
  obtain ⟨t, ht⟩ := step_total s (.inr he)
  exact h t ht

theorem act_step {s t : State} (h : step s = .next t) : act .step s = t := by
  rw [act, h]

theorem act_of_no_step {s : State} (h : ∀ t, step s ≠ .next t) : act .step s = s := by
  rw [act]
  split
  · exact absurd ‹_› (h _)
  · rfl

/-- An act shows nothing, and leaves the block alone or refused; or it is a step that runs a transaction and shows it
with its outcome. -/
theorem act_effect (x : Act) (s : State) :
    (actObserved x s = none ∧ (block (act x s) = block s ∨ ∃ r, block (act x s) = block (refuse r s))) ∨
    (∃ i u, x = .step ∧ s.nextTxn = some i ∧ issuer i = s.turn ∧ exec i s = .next u ∧
      actObserved x s = some (i, u.last) ∧ block (act x s) = block u) := by
  cases x with
  | issue a r => exact .inl ⟨rfl, .inl rfl⟩
  | schedule a => exact .inl ⟨rfl, .inl rfl⟩
  | step =>
    by_cases hstep : ∃ t, step s = .next t
    · obtain ⟨t, ht⟩ := hstep
      rw [act_step ht]
      rcases step_effect ht with ⟨hn, hb⟩ | ⟨hn, r, -, hb⟩ | ⟨i, u, hn, ho, hu, hl, hb⟩
      · exact .inl ⟨observed_eq_none hn, .inl hb⟩
      · exact .inl ⟨observed_eq_none hn, .inr ⟨r, hb⟩⟩
      · exact .inr ⟨i, u, rfl, hn, ho, hu, hl ▸ observed_eq_some hn ht, hb⟩
    · push Not at hstep
      exact .inl ⟨observed_of_no_step hstep, .inl (by rw [act_of_no_step hstep])⟩

/-- A step whose next transaction is `i` runs it and shows it. -/
theorem act_effect_of_nextTxn {s : State} {i : Instr} (hn : s.nextTxn = some i) :
    ∃ u, exec i s = .next u ∧ actObserved .step s = some (i, u.last) := by
  rcases act_effect .step s with ⟨ho, -⟩ | ⟨j, u, -, hj, -, hu, ho, -⟩
  · obtain ⟨t, ht⟩ := step_total s (.inr (fetched_of_nextTxn hn).2.1)
    rw [actObserved, observed_eq_some hn ht] at ho
    cases ho
  · rw [hn] at hj
    cases hj
    exact ⟨u, hu, ho⟩

/-- What an act shows is what the transaction came to. -/
theorem act_effect_of_observed {x : Act} {s : State} {i : Instr} {r : TxnResult} (h : actObserved x s = some (i, r)) :
    ∃ u, exec i s = .next u ∧ u.last = r ∧ block (act x s) = block u := by
  rcases act_effect x s with ⟨ho, -⟩ | ⟨j, u, -, -, -, hu, ho, hb⟩ <;> rw [h] at ho <;> cases ho
  exact ⟨u, hu, rfl, hb⟩

end Sys2Proof.Proofs.Acts

namespace Sys2Proof.Proofs.Fifo
open Sys2Proof Sys2Proof.Machine Sys2Proof.Proofs.Bodies Sys2Proof.Proofs.Steps Sys2Proof.Proofs.Acts

/-! ### What crosses a queue (R46) -/

/-- A transaction that answers no response sends and receives nothing. -/
theorem crossed_of_not_returned {r : TxnResult} (h : ∀ x, r ≠ .returned x) (c : Config) (i : Instr) :
    sentOut c (some (i, r)) = [] ∧ receivedOut (some (i, r)) = [] ∧ sentIn (some (i, r)) = [] ∧
      receivedIn (some (i, r)) = [] := by
  cases r with
  | returned x => exact absurd rfl (h x)
  | _ => cases i <;> exact ⟨rfl, rfl, rfl, rfl⟩

theorem body_outq_fifo (i : Instr) (s : State) :
    s.outq ++ sentOut s.cfg (some (i, (body i s).last)) =
      receivedOut (some (i, (body i s).last)) ++ (body i s).outq := by
  cases i with
  | ioWr p v =>
    by_cases hp : p = s.cfg.txAddr
    · cases ho : s.outqConsOpen <;> simp [sentOut, receivedOut, hp, ho]
    · simp [sentOut, receivedOut, hp]
  | outqTryrecv => cases hq : s.outq <;> simp [sentOut, receivedOut, hq]
  | outqRecv => cases hq : s.outq <;> simp [sentOut, receivedOut, hq]
  | _ => simp [sentOut, receivedOut]

theorem body_inq_fifo (i : Instr) (s : State) :
    s.inq ++ sentIn (some (i, (body i s).last)) = receivedIn (some (i, (body i s).last)) ++ (body i s).inq := by
  cases i with
  | inqSend v => cases ho : s.inqConsOpen <;> simp [sentIn, receivedIn, ho]
  | inqTryrecv => cases hq : s.inq <;> simp [sentIn, receivedIn, hq]
  | inqRecv => cases hq : s.inq <;> simp [sentIn, receivedIn, hq]
  | _ => simp [sentIn, receivedIn]

/-- One transaction: what was queued and what it sends are what it receives and what is queued then. -/
theorem exec_fifo {i : Instr} {s u : State} (h : exec i s = .next u) :
    s.outq ++ sentOut s.cfg (some (i, u.last)) = receivedOut (some (i, u.last)) ++ u.outq ∧
      s.inq ++ sentIn (some (i, u.last)) = receivedIn (some (i, u.last)) ++ u.inq := by
  rcases exec_cases h with ⟨-, rfl⟩ | ⟨-, -, rfl⟩ | ⟨-, -, rfl⟩
  · obtain ⟨hso, hro, hsi, hri⟩ :=
      crossed_of_not_returned (r := .refused .closedEndpoint) nofun s.cfg i
    simp [hso, hro, hsi, hri]
  · obtain ⟨hso, hro, hsi, hri⟩ := crossed_of_not_returned (r := .held) nofun s.cfg i
    simp [hso, hro, hsi, hri]
  · exact ⟨body_outq_fifo i s, body_inq_fifo i s⟩

theorem act_fifo (x : Act) (s : State) :
    s.outq ++ sentOut s.cfg (actObserved x s) = receivedOut (actObserved x s) ++ (act x s).outq ∧
      s.inq ++ sentIn (actObserved x s) = receivedIn (actObserved x s) ++ (act x s).inq := by
  rcases act_effect x s with ⟨ho, hb | ⟨r, hb⟩⟩ | ⟨i, u, -, -, -, hu, ho, hb⟩
  · have houtq : (act x s).outq = s.outq := (congrArg State.outq hb :)
    have hinq : (act x s).inq = s.inq := (congrArg State.inq hb :)
    simp [ho, houtq, hinq, sentOut, receivedOut, sentIn, receivedIn]
  · have houtq : (act x s).outq = s.outq := (congrArg State.outq hb :)
    have hinq : (act x s).inq = s.inq := (congrArg State.inq hb :)
    simp [ho, houtq, hinq, sentOut, receivedOut, sentIn, receivedIn]
  · have houtq : (act x s).outq = u.outq := (congrArg State.outq hb :)
    have hinq : (act x s).inq = u.inq := (congrArg State.inq hb :)
    rw [ho, houtq, hinq]
    exact exec_fifo hu

/-- A queue that is first in, first out in every act is so in every run. -/
theorem run_fifo {q : State → List Byte} {sent : Config → Option (Instr × TxnResult) → List Byte}
    {received : Option (Instr × TxnResult) → List Byte}
    (hact : ∀ x s, q s ++ sent s.cfg (actObserved x s) = received (actObserved x s) ++ q (act x s))
    (acts : List Act) (s : State) :
    q s ++ tally sent acts s = tally (fun _ => received) acts s ++ q (after acts s) := by
  induction acts generalizing s with
  | nil => simp [tally]
  | cons x xs ih =>
    calc q s ++ tally sent (x :: xs) s
        = q s ++ sent s.cfg (actObserved x s) ++ tally sent xs (act x s) := by rw [tally, List.append_assoc]
      _ = received (actObserved x s) ++ (q (act x s) ++ tally sent xs (act x s)) := by rw [hact, List.append_assoc]
      _ = tally (fun _ => received) (x :: xs) s ++ q (after (x :: xs) s) := by
        rw [ih, tally, List.append_assoc, after_cons]

/-- Settles O33: act by act. -/
theorem queuesAreFifo : Obligations.QueuesAreFifo :=
  fun acts s => ⟨run_fifo (fun x s => (act_fifo x s).1) acts s, run_fifo (fun x s => (act_fifo x s).2) acts s⟩

end Sys2Proof.Proofs.Fifo

namespace Sys2Proof.Proofs.Delivery
open Sys2Proof Sys2Proof.Machine Sys2Proof.Proofs.Bodies Sys2Proof.Proofs.Steps Sys2Proof.Proofs.Acts

/-! ### The bytes received in an infinite run -/

section
variable {st : Nat → State} {acts : Nat → Act}

/-- The bytes received from `outq` in the `k` acts from point `n` on. -/
def receivedFrom (st : Nat → State) (acts : Nat → Act) (n k : Nat) : List Byte :=
  tally (fun _ => receivedOut) (actsFrom acts n k) (st n)

theorem receivedFrom_succ (h : IsRun st acts) (n k : Nat) :
    receivedFrom st acts n (k + 1) =
      receivedFrom st acts n k ++ receivedOut (actObserved (acts (n + k)) (st (n + k))) :=
  tally_actsFrom_succ h _ n k

theorem receivedOut_length (o : Option (Instr × TxnResult)) : (receivedOut o).length ≤ 1 := by
  unfold receivedOut
  split <;> simp

theorem receivedFrom_length_mono (h : IsRun st acts) (n : Nat) {j k : Nat} (hjk : j ≤ k) :
    (receivedFrom st acts n j).length ≤ (receivedFrom st acts n k).length := by
  induction k, hjk using Nat.le_induction with
  | base => exact Nat.le_refl _
  | succ k _ ih =>
    rw [receivedFrom_succ h, List.length_append]
    omega

/-- The queue at point `n` and what is sent after it are what is received after it and the queue then. -/
theorem receivedFrom_fifo (h : IsRun st acts) (n k : Nat) :
    (st n).outq ++ tally sentOut (actsFrom acts n k) (st n) = receivedFrom st acts n k ++ (st (n + k)).outq := by
  rw [(Fifo.queuesAreFifo (actsFrom acts n k) (st n)).1, after_actsFrom h]
  rfl

theorem outq_length_le (h : IsRun st acts) (n k : Nat) :
    (st n).outq.length ≤ (receivedFrom st acts n k).length + (st (n + k)).outq.length := by
  have hlength := congrArg List.length (receivedFrom_fifo h n k)
  rw [List.length_append, List.length_append] at hlength
  omega

/-- A byte with `ahead` before it in the queue is received next after `ahead`, once more than `ahead` is received. -/
theorem delivered_of_length (h : IsRun st acts) {n : Nat} {ahead behind : List Byte} {b : Byte}
    (hq : (st n).outq = ahead ++ b :: behind) (hmore : ∃ k, ahead.length < (receivedFrom st acts n k).length) :
    ∃ k, receivedFrom st acts n k = ahead ∧ receivedOut (actObserved (acts (n + k)) (st (n + k))) = [b] := by
  obtain ⟨k, hk, hfirst⟩ : ∃ k, ahead.length < (receivedFrom st acts n (k + 1)).length ∧
      (receivedFrom st acts n k).length ≤ ahead.length := by
    by_contra hnot
    push Not at hnot
    obtain ⟨k, hk⟩ := hmore
    induction k with
    | zero => exact absurd hk (by simp [receivedFrom, actsFrom, tally])
    | succ k ih =>
      by_cases hlt : ahead.length < (receivedFrom st acts n k).length
      · exact ih hlt
      · exact hlt (hnot k hk)
  have hfifo := receivedFrom_fifo h n (k + 1)
  rw [receivedFrom_succ h, List.length_append] at hk
  have hone := receivedOut_length (actObserved (acts (n + k)) (st (n + k)))
  rw [receivedFrom_succ h, hq, List.append_assoc, List.append_assoc] at hfifo
  obtain ⟨hahead, hrest⟩ := List.append_inj hfifo (by omega)
  have hlength : (receivedOut (actObserved (acts (n + k)) (st (n + k)))).length = 1 := by omega
  obtain ⟨c, hc⟩ := List.length_eq_one_iff.1 hlength
  rw [hc] at hrest
  refine ⟨k, hahead.symm, ?_⟩
  rw [hc, (List.cons_eq_cons.1 hrest).1]

/-- More than `L` bytes are received, if from every point that has no more than `L` some byte more is. -/
theorem received_unbounded {n L : Nat}
    (hgrow : ∀ k, (receivedFrom st acts n k).length ≤ L →
      ∃ j, (receivedFrom st acts n k).length < (receivedFrom st acts n j).length) :
    ∃ k, L < (receivedFrom st acts n k).length := by
  by_contra hnot
  push Not at hnot
  have hall : ∀ m, ∃ k, m ≤ (receivedFrom st acts n k).length := by
    intro m
    induction m with
    | zero => exact ⟨0, Nat.zero_le _⟩
    | succ m ih =>
      obtain ⟨k, hk⟩ := ih
      obtain ⟨j, hj⟩ := hgrow k (hnot k)
      exact ⟨j, by omega⟩
  obtain ⟨k, hk⟩ := hall (L + 1)
  have := hnot k
  omega

/-- A receive at `m` makes what is received by then longer. -/
theorem received_grows (h : IsRun st acts) {n k m : Nat} {b : Byte} (hm : n + k ≤ m)
    (hreceived : receivedOut (actObserved (acts m) (st m)) = [b]) :
    (receivedFrom st acts n k).length < (receivedFrom st acts n (m - n + 1)).length := by
  have hmono := receivedFrom_length_mono h n (show k ≤ m - n by omega)
  rw [receivedFrom_succ h, show n + (m - n) = m by omega, hreceived, List.length_append, List.length_singleton]
  omega

end

/-! ### A host that polls -/

/-- A poll of an open queue that is not empty receives its head. -/
theorem receivedOut_of_poll {s : State} {b : Byte} {q : List Byte} (hn : s.nextTxn = some .outqTryrecv)
    (he : hostEnabled s = true) (hopen : s.outqConsOpen = true) (hq : s.outq = b :: q) :
    receivedOut (actObserved .step s) = [b] := by
  obtain ⟨u, hu, ho⟩ := act_effect_of_nextTxn hn
  rw [exec_of_enabled .outqTryrecv s hopen he, body_outqTryrecv, hq, received_cons] at hu
  cases hu
  rw [ho]
  rfl

/-- Settles O35: while no more than `ahead` is received the queue is not empty, so the next poll receives. -/
theorem pollingHostReceivesEveryByte : Obligations.PollingHostReceivesEveryByte := by
  intro st acts hrun hpolls hopen n ahead b behind hq
  refine delivered_of_length hrun hq (received_unbounded fun k hk => ?_)
  obtain ⟨m, hm, hstep, hn, he⟩ := hpolls (n + k)
  by_cases hmore : (receivedFrom st acts n k).length < (receivedFrom st acts n (m - n)).length
  · exact ⟨m - n, hmore⟩
  · have hlength := outq_length_le hrun n (m - n)
    rw [hq, show n + (m - n) = m by omega, List.length_append, List.length_cons] at hlength
    cases hqm : (st m).outq with
    | nil =>
      rw [hqm, List.length_nil] at hlength
      omega
    | cons c q =>
      have hreceived := receivedOut_of_poll hn he (hopen m) hqm
      rw [← hstep] at hreceived
      exact ⟨m - n + 1, received_grows hrun hm hreceived⟩

end Sys2Proof.Proofs.Delivery

namespace Sys2Proof.Proofs.Progress
open Sys2Proof Sys2Proof.Machine Sys2Proof.Proofs.Bodies Sys2Proof.Proofs.Steps Sys2Proof.Proofs.Acts
open Sys2Proof.Proofs.Delivery Sys2Proof.Proofs.TransactionRuns

/-! ### The host of a fair run -/

theorem observed_of_hostEvents {o : Option (Instr × TxnResult)} {e : HostEvent} (h : hostEvents o = [e]) :
    o = some e := by
  unfold hostEvents at h
  split at h
  · split at h
    · cases h
      rfl
    · cases h
  · cases h

/-- A poll meets `EMPTY` on an empty queue alone. -/
theorem outq_nil_of_drained {x : Act} {s : State}
    (h : actObserved x s = some (.outqTryrecv, .returned .empty)) : s.outq = [] := by
  obtain ⟨u, hu, hl, -⟩ := act_effect_of_observed h
  rcases exec_cases hu with ⟨-, rfl⟩ | ⟨-, -, rfl⟩ | ⟨-, -, rfl⟩
  · cases hl
  · cases hl
  · rw [body_outqTryrecv] at hl
    cases hq : s.outq with
    | nil => rfl
    | cons b q =>
      simp only [hq, received_cons] at hl
      cases hl

/-- While no more than `ahead` is received, the end of a `DRAIN` and a `DRAIN` that goes on both mean that more is. -/
theorem fair_run_delivers {st : Nat → State} {acts : Nat → Act} (hrun : IsRun st acts) (hiter : HostIterates st acts)
    {n : Nat} {ahead behind : List Byte} {b : Byte} (hactive : ∀ m, n ≤ m → (st m).host = .active)
    (hq : (st n).outq = ahead ++ b :: behind) :
    ∃ k, receivedFrom st acts n k = ahead ∧ receivedOut (actObserved (acts (n + k)) (st (n + k))) = [b] := by
  refine delivered_of_length hrun hq (received_unbounded fun k hk => ?_)
  rcases hiter (n + k) (hactive _ (Nat.le_add_right n k)) with ⟨m, hm, hleft⟩ | ⟨m, hm, hdrained⟩ | hgoes
  · exact absurd (hactive m (by omega)) hleft
  · have hempty := outq_nil_of_drained (observed_of_hostEvents hdrained)
    have hlength := outq_length_le hrun n (m - n)
    rw [hq, show n + (m - n) = m by omega, hempty, List.length_append, List.length_cons, List.length_nil] at hlength
    exact ⟨m - n, by omega⟩
  · obtain ⟨m, hm, c, htook⟩ := hgoes (n + k) (Nat.le_refl _)
    refine ⟨m - n + 1, received_grows (b := c) hrun hm ?_⟩
    rw [observed_of_hostEvents htook]
    rfl

/-! ### The CPU engine of a fair run (R120, R127) -/

/-- The CPU domain is active, its next request is `r`, and the run has not ended. -/
structure Waiting (c : Config) (r : Request) (s : State) : Prop where
  cfg : s.cfg = c
  active : s.cpu = .active
  phase : s.phase = .running ∨ s.phase = .exiting
  next : ∃ rs, s.cpuTxns = r :: rs

theorem step_txns_of_turn_ne {s t : State} {a : Agent} (h : step s = .next t) (ha : s.turn ≠ a) :
    t.txns a = s.txns a := by
  have hretire : ∀ u : State, (u.retire s.turn).txns a = u.txns a := by
    intro u
    rw [retire_txns, if_neg fun hu => ha hu.2.symm]
  rcases step_cases h with ⟨-, rfl⟩ | ⟨-, -, -, rfl⟩ | ⟨r, -, -, -, rfl⟩ | ⟨i, u, -, -, -, hu, rfl⟩
  · rw [refusedTurn, hretire]
    cases a <;> rfl
  · cases a <;> rfl
  · rw [refusedTurn, hretire]
    cases a <;> rfl
  · rw [hretire, exec_txns hu, txns_takeTurn]

theorem phase_of_mayFollow {p q : Phase} (hp : p = .running ∨ p = .exiting) (h : phaseMayFollow p q = true) :
    q = .running ∨ q = .exiting ∨ q = .exited := by
  rcases hp with rfl | rfl <;> simp only [phaseMayFollow, Bool.or_eq_true, beq_iff_eq] at h
  · rcases h with rfl | rfl
    · exact .inl rfl
    · exact .inr (.inl rfl)
  · rcases h with rfl | rfl
    · exact .inr (.inl rfl)
    · exact .inr (.inr rfl)

/-- An act that is no turn of the CPU leaves its request waiting, unless it ends the run. -/
theorem waiting_act {c : Config} {r : Request} {s : State} {x : Act} (h : Waiting c r s)
    (hx : x = .step → s.turn ≠ .cpu) (hexited : (act x s).phase ≠ .exited) : Waiting c r (act x s) := by
  obtain ⟨hcfg, hactive, hphase, rs, hnext⟩ := h
  cases x with
  | schedule a => exact ⟨hcfg, hactive, hphase, rs, hnext⟩
  | issue a q =>
    refine ⟨hcfg, hactive, hphase, ?_⟩
    cases a with
    | cpu => exact ⟨rs ++ [q], by rw [act, issue_cpuTxns, if_pos rfl, State.txns, hnext, List.cons_append]⟩
    | host => exact ⟨rs, hnext⟩
    | proc => exact ⟨rs, hnext⟩
  | step =>
    have hturn := hx rfl
    obtain ⟨t, ht⟩ := step_total s (.inr (BlockingReceive.ended_of_phase hphase))
    rw [act_step ht] at hexited ⊢
    refine ⟨(Alphabets.step_cfg ht).trans hcfg, ?_, ?_, rs, (step_txns_of_turn_ne ht hturn).trans hnext⟩
    · by_contra hne
      rcases Ownership.cpu_owner ht (fun heq => hne (heq.trans hactive)) with ⟨-, hloaded, -⟩ | ⟨hcpu, -⟩
      · rcases hphase with hp | hp <;> rw [hp] at hloaded <;> cases hloaded
      · exact hturn hcpu
    · rcases phase_of_mayFollow hphase (Ownership.phaseTransitionsAsListed s t ht).1 with hp | hp | hp
      · exact .inl hp
      · exact .inr hp
      · exact absurd hp hexited

/-- The engine's bodies end in a response or a fault. -/
theorem engine_body_last {i : Instr} (hi : cpuAgentIssues i = true) (s : State) :
    (∃ x, (body i s).last = .returned x) ∨ ∃ f, (body i s).last = .faulted f := by
  cases i with
  | memRd _ | memWr _ _ | ioRd _ => exact .inl ⟨_, rfl⟩
  | ioWr p v =>
    rw [body_ioWr]
    by_cases hp : p = s.cfg.txAddr ∧ s.outqConsOpen = false
    · exact .inr ⟨_, if_pos hp⟩
    · exact .inl ⟨_, if_neg hp⟩
  | _ => simp [cpuAgentIssues] at hi

section
variable {c : Config} {r : Request} {i : Instr} {s : State}

theorem exec_of_waiting (h : Waiting c r s) (hi : cpuAgentIssues i = true) : exec i s = .next (body i s) := by
  obtain ⟨-, hendpoint, hcond⟩ := engine_conditions hi s
  exact exec_of_enabled i s hendpoint (hcond.trans ((cpuEnabled_iff s).2 ⟨h.phase, h.active⟩))

theorem checkRequest_of_waiting (h : Waiting c r s) (hi : cpuAgentIssues i = true)
    (hd : decode c.addrWidth r = .ok i) : checkRequest s.cfg .cpu r = .run i := by
  rw [checkRequest, h.cfg, hd]
  exact if_pos (engine_conditions hi s).1

/-- A waiting transaction of the engine is an enabled one of an active domain. -/
theorem readyTxn_of_waiting (h : Waiting c r s) (hc : configValid c = true) (hi : cpuAgentIssues i = true)
    (hd : decode c.addrWidth r = .ok i) : s.readyTxn .cpu = some i := by
  have hterminal : terminal s = false := by
    rcases h.phase with hp | hp <;> rw [terminal, hp] <;> rfl
  have htakes : takesStep i s = true := by
    rw [takesStep, exec_of_waiting h hi]
    rcases engine_body_last hi s with ⟨x, hl⟩ | ⟨f, hl⟩ <;> simp [hl]
  obtain ⟨rs, hnext⟩ := h.next
  simp [State.readyTxn, State.domainActive, State.txns, h.active, h.cfg ▸ hc, hterminal, hnext,
    checkRequest_of_waiting h hi hd, htakes]

/-- At the CPU's turn it is taken. -/
theorem observed_of_waiting (h : Waiting c r s) (hc : configValid c = true) (hi : cpuAgentIssues i = true)
    (hd : decode c.addrWidth r = .ok i) (hturn : s.turn = .cpu) :
    actObserved .step s = some (i, (body i s).last) := by
  obtain ⟨rs, hnext⟩ := h.next
  have hsilenced : silenced s s.turn = false := by simp [hturn, silenced, h.active]
  have hf : s.fetched = .run i := by
    rw [fetched_of_check (rs := rs) hsilenced (by rw [hturn]; exact hnext), hturn]
    exact checkRequest_of_waiting h hi hd
  have hn := nextTxn_eq_some (h.cfg ▸ hc) (BlockingReceive.ended_of_phase h.phase) hf
  obtain ⟨u, hu, ho⟩ := act_effect_of_nextTxn hn
  rw [exec_of_waiting h hi] at hu
  cases hu
  exact ho

end

/-- What waits for ever is enabled for ever, and fairness gives it the turn at which it is taken. -/
theorem fair_run_takes {st : Nat → State} {acts : Nat → Act} (hrun : IsRun st acts) (hfair : WeaklyFair st acts)
    {n : Nat} {c : Config} {r : Request} {i : Instr} (hc : configValid c = true) (hwait : Waiting c r (st n))
    (hd : decode c.addrWidth r = .ok i) (hi : cpuAgentIssues i = true) :
    ∃ m, n ≤ m ∧ ((st m).phase = .exited ∨
      (Waiting c r (st m) ∧ acts m = .step ∧ (st m).turn = .cpu)) := by
  by_contra hnot
  push Not at hnot
  have hall : ∀ m, n ≤ m → Waiting c r (st m) := by
    intro m hm
    induction m, hm using Nat.le_induction with
    | base => exact hwait
    | succ m hm ih =>
      have hlater := (hnot (m + 1) (by omega)).1
      rw [hrun m] at hlater ⊢
      exact waiting_act ih (fun hstep => (hnot m hm).2 ih hstep) hlater
  obtain ⟨m, hm, hstep, hturn⟩ := hfair .cpu i n fun m hm => readyTxn_of_waiting (hall m hm) hc hi hd
  exact (hnot m hm).2 (hall m hm) hstep hturn

/-- Settles O60: the delivery from the host's iterations, the CPU's turn from weak fairness. -/
theorem fairRunsMakeProgress : Obligations.FairRunsMakeProgress := by
  intro st acts hrun hfair
  refine ⟨fun n ahead b behind _ hq => ?_, fun n r rs i hc hcpu hphase hnext hd hi => ?_⟩
  · by_cases hleft : ∃ m, n ≤ m ∧ (st m).host ≠ .active
    · exact .inr hleft
    · push Not at hleft
      exact .inl (fair_run_delivers hrun hfair.iterates hleft hq)
  · obtain ⟨m, hm, hend | ⟨hwait, hstep, hturn⟩⟩ :=
      fair_run_takes hrun hfair.taken hc ⟨rfl, hcpu, hphase, rs, hnext⟩ hd hi
    · exact ⟨m, hm, .inl hend⟩
    · obtain ⟨qs, hqs⟩ := hwait.next
      refine ⟨m, hm, .inr ⟨by rw [hqs, List.head?_cons], _, ?_, engine_body_last hi (st m)⟩⟩
      rw [hstep]
      exact observed_of_waiting hwait hc hi hd hturn

end Sys2Proof.Proofs.Progress

namespace Sys2Proof.Proofs.HostLoop
open Sys2Proof Sys2Proof.Machine Sys2Proof.Proofs.Bodies Sys2Proof.Proofs.Steps Sys2Proof.Proofs.Acts

/-! ### The kinds of HOST events that end the loop -/

theorem hostEventKind_eq_quit {e : HostEvent} : hostEventKind e = .quit ↔ e = (.quit, .returned .none) := by
  constructor
  · intro h
    unfold hostEventKind at h
    split at h
    case h_4 => rfl
    all_goals cases h
  · rintro rfl
    rfl

theorem hostEventKind_eq_stopped {e : HostEvent} :
    hostEventKind e = .stopped ↔ ∃ v f, e = (.inqSend v, .faulted f) := by
  constructor
  · intro h
    unfold hostEventKind at h
    split at h
    case h_5 => exact ⟨_, _, rfl⟩
    all_goals cases h
  · rintro ⟨v, f, rfl⟩
    rfl

/-! ### A tick as a walk -/

/-- Where a tick goes on an event: `ended` says whether its `DRAIN` has met `EMPTY`. -/
def tickNext (ended : Bool) : HostEventKind → Option Bool
  | .send    => some ended
  | .took    => if ended then none else some false
  | .drained => if ended then none else some true
  | _        => none

theorem tickFrom_cons (ended : Bool) (e : HostEvent) (es : List HostEvent) :
    tickFrom ended (e :: es) = true ↔ ∃ c, tickNext ended (hostEventKind e) = some c ∧ tickFrom c es = true := by
  rw [tickFrom]
  cases hostEventKind e <;> cases ended <;> simp [tickNext]

/-- The events begin a tick, from that point of it on. -/
def CutShort (ended : Bool) (es : List HostEvent) : Prop := ∃ more, tickFrom ended (es ++ more) = true

/-- The events are a tick that a faulting send cuts short. -/
def Stopped (ended : Bool) (es : List HostEvent) : Prop :=
  ∃ pre v f, es = pre ++ [(.inqSend v, .faulted f)] ∧ CutShort ended pre

/-- The events complete the tick and go on as a loop. -/
def Completes (ended : Bool) (es : List HostEvent) : Prop :=
  ∃ x y, es = x ++ y ∧ tickFrom ended x = true ∧ IsHostLoop y

/-- What can follow inside a tick. -/
def LoopFrom (ended : Bool) (es : List HostEvent) : Prop :=
  Completes ended es ∨ CutShort ended es ∨ Stopped ended es

theorem cutShort_nil (ended : Bool) : CutShort ended [] := by
  cases ended with
  | true => exact ⟨[], rfl⟩
  | false => exact ⟨[(.outqTryrecv, .returned .empty)], rfl⟩

theorem cutShort_cons (ended : Bool) (e : HostEvent) (es : List HostEvent) :
    CutShort ended (e :: es) ↔ ∃ c, tickNext ended (hostEventKind e) = some c ∧ CutShort c es := by
  constructor
  · rintro ⟨more, h⟩
    obtain ⟨c, hc, h⟩ := (tickFrom_cons ended e (es ++ more)).1 h
    exact ⟨c, hc, more, h⟩
  · rintro ⟨c, hc, more, h⟩
    exact ⟨more, (tickFrom_cons ended e (es ++ more)).2 ⟨c, hc, h⟩⟩

theorem stopped_cons (ended : Bool) (e : HostEvent) (es : List HostEvent) :
    Stopped ended (e :: es) ↔
      (hostEventKind e = .stopped ∧ es = []) ∨ ∃ c, tickNext ended (hostEventKind e) = some c ∧ Stopped c es := by
  constructor
  · rintro ⟨pre, v, f, hes, hcut⟩
    cases pre with
    | nil =>
      obtain ⟨rfl, rfl⟩ := List.cons_eq_cons.1 hes
      exact .inl ⟨rfl, rfl⟩
    | cons p pre =>
      obtain ⟨rfl, rfl⟩ := List.cons_eq_cons.1 hes
      obtain ⟨c, hc, hcut⟩ := (cutShort_cons ended e pre).1 hcut
      exact .inr ⟨c, hc, pre, v, f, rfl, hcut⟩
  · rintro (⟨hstopped, rfl⟩ | ⟨c, hc, pre, v, f, rfl, hcut⟩)
    · obtain ⟨v, f, rfl⟩ := hostEventKind_eq_stopped.1 hstopped
      exact ⟨[], v, f, rfl, cutShort_nil ended⟩
    · exact ⟨e :: pre, v, f, rfl, (cutShort_cons ended e pre).2 ⟨c, hc, hcut⟩⟩

theorem completes_cons (ended : Bool) (e : HostEvent) (es : List HostEvent) :
    Completes ended (e :: es) ↔
      (ended = true ∧ IsHostLoop (e :: es)) ∨ ∃ c, tickNext ended (hostEventKind e) = some c ∧ Completes c es := by
  constructor
  · rintro ⟨x, y, hes, htick, hloop⟩
    cases x with
    | nil =>
      rw [List.nil_append] at hes
      subst hes
      exact .inl ⟨htick, hloop⟩
    | cons p x =>
      obtain ⟨rfl, rfl⟩ := List.cons_eq_cons.1 hes
      obtain ⟨c, hc, htick⟩ := (tickFrom_cons ended e x).1 htick
      exact .inr ⟨c, hc, x, y, rfl, htick, hloop⟩
  · rintro (⟨rfl, hloop⟩ | ⟨c, hc, x, y, rfl, htick, hloop⟩)
    · exact ⟨[], e :: es, rfl, rfl, hloop⟩
    · exact ⟨e :: x, y, rfl, (tickFrom_cons ended e x).2 ⟨c, hc, htick⟩, hloop⟩

theorem loopFrom_cons (ended : Bool) (e : HostEvent) (es : List HostEvent) :
    LoopFrom ended (e :: es) ↔
      (ended = true ∧ IsHostLoop (e :: es)) ∨ (hostEventKind e = .stopped ∧ es = []) ∨
        ∃ c, tickNext ended (hostEventKind e) = some c ∧ LoopFrom c es := by
  simp only [LoopFrom, completes_cons, cutShort_cons, stopped_cons]
  constructor
  · rintro ((h | ⟨c, hc, h⟩) | ⟨c, hc, h⟩ | h | ⟨c, hc, h⟩)
    · exact .inl h
    · exact .inr (.inr ⟨c, hc, .inl h⟩)
    · exact .inr (.inr ⟨c, hc, .inr (.inl h)⟩)
    · exact .inr (.inl h)
    · exact .inr (.inr ⟨c, hc, .inr (.inr h)⟩)
  · rintro (h | h | ⟨c, hc, h | h | h⟩)
    · exact .inl (.inl h)
    · exact .inr (.inr (.inl h))
    · exact .inl (.inr ⟨c, hc, h⟩)
    · exact .inr (.inl ⟨c, hc, h⟩)
    · exact .inr (.inr (.inr ⟨c, hc, h⟩))

/-! ### The loop is a tick and then the loop, or a quit -/

theorem isHostLoop_iff (es : List HostEvent) :
    IsHostLoop es ↔ LoopFrom false es ∨ es = [(.quit, .returned .none)] := by
  constructor
  · rintro ⟨ticks, rest, rfl, hticks, hrest⟩
    cases ticks with
    | nil =>
      rcases hrest with hquit | hcut | ⟨pre, v, f, hes, hcut⟩
      · exact .inr hquit
      · exact .inl (.inr (.inl hcut))
      · exact .inl (.inr (.inr ⟨pre, v, f, hes, hcut⟩))
    | cons t ticks =>
      refine .inl (.inl ⟨t, ticks.flatten ++ rest, ?_, hticks t List.mem_cons_self, ticks, rest, rfl,
        fun u hu => hticks u (List.mem_cons_of_mem t hu), hrest⟩)
      rw [List.flatten_cons, List.append_assoc]
  · rintro ((⟨x, y, rfl, htick, ticks, rest, rfl, hticks, hrest⟩ | hcut | ⟨pre, v, f, hes, hcut⟩) | hquit)
    · refine ⟨x :: ticks, rest, ?_, ?_, hrest⟩
      · rw [List.flatten_cons, List.append_assoc]
      · intro t ht
        rcases List.mem_cons.1 ht with rfl | ht
        · exact htick
        · exact hticks t ht
    · exact ⟨[], es, rfl, nofun, .inr (.inl hcut)⟩
    · exact ⟨[], es, rfl, nofun, .inr (.inr ⟨pre, v, f, hes, hcut⟩)⟩
    · exact ⟨[], es, rfl, nofun, .inl hquit⟩

/-- The positions of the loop, as conditions on the events that follow. -/
def Follows : LoopPos → List HostEvent → Prop
  | .start, es    => IsHostLoop es
  | .inTick, es   => LoopFrom false es
  | .tickDone, es => LoopFrom true es
  | .over, es     => es = []

theorem follows_nil (p : LoopPos) : Follows p [] := by
  cases p with
  | start => exact (isHostLoop_iff []).2 (.inl (.inr (.inl (cutShort_nil false))))
  | inTick => exact .inr (.inl (cutShort_nil false))
  | tickDone => exact .inr (.inl (cutShort_nil true))
  | _ => rfl

theorem isHostLoop_cons (e : HostEvent) (es : List HostEvent) :
    IsHostLoop (e :: es) ↔
      (hostEventKind e = .stopped ∧ es = []) ∨
        (∃ c, tickNext false (hostEventKind e) = some c ∧ LoopFrom c es) ∨ (hostEventKind e = .quit ∧ es = []) := by
  rw [isHostLoop_iff, loopFrom_cons, List.cons_eq_cons, hostEventKind_eq_quit]
  simp [or_assoc]

/-- Each position of the loop goes on as its table of next positions says. -/
theorem follows_cons (p : LoopPos) (e : HostEvent) (es : List HostEvent) :
    Follows p (e :: es) ↔ ∃ q, p.next (hostEventKind e) = some q ∧ Follows q es := by
  have hsub : LoopFrom false es → LoopFrom true es := fun h =>
    .inl ⟨[], es, rfl, rfl, (isHostLoop_iff es).2 (.inl h)⟩
  cases p with
  | start =>
    rw [Follows, isHostLoop_cons]
    cases hostEventKind e <;> simp [tickNext, LoopPos.next, Follows]
  | inTick =>
    rw [Follows, loopFrom_cons]
    cases hostEventKind e <;> simp [tickNext, LoopPos.next, Follows]
  | tickDone =>
    rw [Follows, loopFrom_cons, isHostLoop_cons]
    cases hostEventKind e with
    | send => simpa [tickNext, LoopPos.next, Follows] using hsub
    | _ => simp [tickNext, LoopPos.next, Follows]
  | _ => simp [Follows, LoopPos.next]

theorem followsFrom_iff (p : LoopPos) (es : List HostEvent) : followsFrom p es = true ↔ Follows p es := by
  induction es generalizing p with
  | nil => simp [followsFrom, follows_nil]
  | cons e es ih =>
    rw [follows_cons, followsFrom]
    cases p.next (hostEventKind e) with
    | none => simp
    | some q => simp [ih]

/-! ### After the quit -/

/-- What the quit leaves for good: the host domain done, its consumer endpoint gone, the run past `RUNNING`. -/
def HostGone (s : State) : Prop :=
  s.host = .done ∧ s.outqConsOpen = false ∧ (s.phase = .exiting ∨ s.phase = .exited)

theorem hostGone_body {i : Instr} {s : State} (he : enabled i s = true) (h : HostGone s) : HostGone (body i s) := by
  obtain ⟨hhost, hclosed, hphase⟩ := h
  refine ⟨?_, Invariants.body_outqConsOpen_of_closed i hclosed, ?_⟩
  · by_contra hne
    rcases Writers.host_writer (fun heq => hne (heq.trans hhost)) with rfl | rfl | ⟨v, rfl, -⟩
    · have hloaded := (startEnabled_iff s).1 he
      simp [hloaded] at hphase
    · have hactive := ((quitEnabled_iff s).1 he).2
      simp [hactive] at hhost
    · have hactive := ((hostEnabled_iff s).1 he).2
      simp [hactive] at hhost
  · by_cases hsame : (body i s).phase = s.phase
    · rw [hsame]
      exact hphase
    · rcases Ownership.body_phase_cases he hsame with ⟨hp, -⟩ | ⟨hp, -⟩ | ⟨hp, -, -⟩ | ⟨-, -, hq⟩
      · simp [hp] at hphase
      · simp [hp] at hphase
      · simp [hp] at hphase
      · exact .inr hq

theorem hostGone_act {s : State} (x : Act) (h : HostGone s) : HostGone (act x s) := by
  have hblock : HostGone (block (act x s)) := by
    rcases act_effect x s with ⟨-, hb | ⟨r, hb⟩⟩ | ⟨i, u, -, -, -, hu, -, hb⟩ <;> rw [hb]
    · exact h
    · exact h
    · rcases exec_cases hu with ⟨-, rfl⟩ | ⟨-, -, rfl⟩ | ⟨-, he, rfl⟩
      · exact h
      · exact h
      · exact hostGone_body he h
  exact hblock

theorem mem_hostEvents {o : Option (Instr × TxnResult)} {e : HostEvent} (h : e ∈ hostEvents o) :
    o = some e ∧ issuer e.1 = .host ∧ e.2 ≠ .held := by
  unfold hostEvents at h
  split at h
  · split at h
    · rename_i hcond
      obtain rfl := List.mem_singleton.1 h
      exact ⟨rfl, hcond⟩
    · cases h
  · cases h

/-- With the host gone, a HOST transaction holds or is refused, unless it is a close. -/
theorem hostEvents_of_hostGone {s : State} {x : Act} {e : HostEvent} (h : HostGone s)
    (hmem : e ∈ hostEvents (actObserved x s)) : e = (.outqClose, .returned .none) ∨ ∃ r, e.2 = .refused r := by
  obtain ⟨hobserved, howner, hheld⟩ := mem_hostEvents hmem
  obtain ⟨i, r⟩ := e
  obtain ⟨u, hu, rfl, -⟩ := act_effect_of_observed hobserved
  rcases exec_cases hu with ⟨-, rfl⟩ | ⟨-, -, rfl⟩ | ⟨-, he, rfl⟩
  · exact .inr ⟨_, rfl⟩
  · exact absurd rfl hheld
  · obtain ⟨hhost, -, hphase⟩ := h
    cases i with
    | outqClose => exact .inl rfl
    | outqTryrecv | outqRecv | inqSend _ =>
      have hactive := ((hostEnabled_iff s).1 he).2
      simp [hactive] at hhost
    | quit =>
      have hactive := ((quitEnabled_iff s).1 he).2
      simp [hactive] at hhost
    | _ => cases howner

theorem tally_of_hostGone (acts : List Act) {s : State} (h : HostGone s) :
    (∀ e ∈ tally (fun _ => hostEvents) acts s, e = (.outqClose, .returned .none) ∨ ∃ r, e.2 = .refused r) ∧
      HostGone (after acts s) := by
  induction acts generalizing s with
  | nil => exact ⟨nofun, h⟩
  | cons x xs ih =>
    obtain ⟨hevents, hgone⟩ := ih (hostGone_act x h)
    refine ⟨fun e he => ?_, hgone⟩
    rcases List.mem_append.1 he with he | he
    · exact hostEvents_of_hostGone h he
    · exact hevents e he

/-- A quit that returned leaves the host gone. -/
theorem hostGone_of_quit {s : State} {x : Act} (h : actObserved x s = some (.quit, .returned .none)) :
    HostGone (act x s) := by
  obtain ⟨u, hu, hl, hb⟩ := act_effect_of_observed h
  rcases exec_cases_of_open rfl hu with ⟨-, rfl⟩ | ⟨-, rfl⟩
  · cases hl
  · have hgone : HostGone (block (act x s)) := by
      rw [hb]
      exact ⟨rfl, rfl, .inl rfl⟩
    exact hgone

/-- The run up to its quit, and what goes on from there. -/
theorem hostGone_after_quit {acts : List Act} {s : State} {pre post : List HostEvent}
    (h : tally (fun _ => hostEvents) acts s = pre ++ (.quit, .returned .none) :: post) :
    (∀ e ∈ post, e = (.outqClose, .returned .none) ∨ ∃ r, e.2 = .refused r) ∧ HostGone (after acts s) := by
  induction acts generalizing s pre with
  | nil => cases pre <;> cases h
  | cons x xs ih =>
    rw [tally] at h
    have hone := hostEvents_length (actObserved x s)
    match hevents : hostEvents (actObserved x s) with
    | [] =>
      rw [hevents, List.nil_append] at h
      exact ih h
    | [e] =>
      rw [hevents, List.singleton_append] at h
      cases pre with
      | nil =>
        obtain ⟨rfl, rfl⟩ := List.cons_eq_cons.1 h
        exact tally_of_hostGone xs (hostGone_of_quit (Progress.observed_of_hostEvents hevents))
      | cons p pre => exact ih (List.cons_eq_cons.1 h).2
    | e :: f :: es =>
      rw [hevents, List.length_cons, List.length_cons] at hone
      omega

/-- Settles O59: the loop told event by event is the loop's grammar, and the quit leaves the host gone. -/
theorem hostLoopIsTicksThenQuit : Obligations.HostLoopIsTicksThenQuit := by
  refine ⟨followsFrom_iff .start, fun acts s pre post h => ?_⟩
  obtain ⟨hpost, hhost, hclosed, -⟩ := hostGone_after_quit h
  exact ⟨hpost, hhost, hclosed⟩

end Sys2Proof.Proofs.HostLoop
